-- ==== Sys2Proof/Word.lean ====
section
/-! DEFINITION. The words of the block: 8-, 16- and 32-bit unsigned values (00_scope.md R17). -/

namespace Sys2Proof

/-- A byte (R17). -/
abbrev Byte := BitVec 8

/-- A 16-bit value: `DSIZE`, `TXLEN`, `PEND.COUNT`, `LEN` (R17). -/
abbrev Half := BitVec 16

/-- A 32-bit value: `BADDR`, `TMO` (R17). -/
abbrev Word := BitVec 32

/-- An exception code, 8 bits (60_exceptions.md R100). -/
abbrev Exc := BitVec 8

end Sys2Proof
end

