-- ==== Sys2Proof/Config.lean ====
section
/-! DEFINITION. The implementation parameters of 00_scope.md R6 to R15, and the values the spec leaves free. -/

namespace Sys2Proof

/-- The parameters of R6 to R15. They are configuration: fixed for a run (R18, R117), no step changes them.
The machine carries them so that every statement speaks of every configuration (log entry 1). -/
structure Config where
  /-- `MAX_SLAVES`, OPEN (R6). -/
  maxSlaves : Nat
  /-- `PAYLOAD_CAP`, OPEN (R7). -/
  payloadCap : Nat
  /-- `FC_WRITE_BLOCK`, OPEN, 8 bits (R8). -/
  fcWriteBlock : Byte
  /-- `PDU_SIZE_MIN`, 1 (R9). -/
  pduSizeMin : Nat := 1
  /-- `REQ_LEN_BASE`, 6, kept as a parameter because the literal is unaudited (R10, C1). -/
  reqLenBase : Half := 6
  /-- `TXBUF_SIZE`, OPEN (R12). -/
  txbufSize : Nat
  /-- `NCTX`, OPEN (R13). -/
  nctx : Nat
  /-- `INFINITE_WAIT` (R14). -/
  infiniteWait : Word := 0xFFFFFFFF
  /-- `PTR_W`, OPEN (R15). -/
  ptrW : Nat
deriving DecidableEq, Repr

/-- The constraints the spec puts on the parameters (R6, R7, R9, R10, R12 to R15). -/
abbrev Config.Legal (c : Config) : Prop :=
  (1 ≤ c.maxSlaves ∧ c.maxSlaves ≤ 255) ∧ c.payloadCap ≤ 65528 ∧ c.pduSizeMin = 1 ∧ c.reqLenBase = 6 ∧
    7 + c.payloadCap ≤ c.txbufSize ∧ 1 ≤ c.nctx ∧ c.infiniteWait = 0xFFFFFFFF ∧ 1 ≤ c.ptrW

/-! ### Free values: no body, so no proof can know them -/

/-- The function code of the chip that `State.reset` describes: the spec gives no value (R8, D4; log entry 2). -/
opaque Config.fcOfChip : Byte

/-- The byte of `TXBUF` at an offset nothing has written since the `n`-th reset: unspecified, a draw fixed at
reset (R21, R35, U2; log entry 10). Arguments: the number of the reset, the offset. -/
opaque Config.txbufByte : Nat → Nat → Byte

/-- The byte the caller's data space holds at an address no listed write gave (R32; log entry 11). -/
opaque Config.cdataByte : Nat → Byte

/-- Whether the finite lock timeout has expired at the `n`-th time the machine asks: with the slot held, "keep
waiting" and "fail" are both possible and the state does not determine which (R75, U6, D11; log entry 9). -/
opaque Config.lockTimeoutExpired : Nat → Bool

/-- Configuration CFG-A of 95_test_vectors.md with the function code left free: the configuration of `State.reset`
(DESIGN CHOICE, log entry 1). -/
def Config.vectorsA : Config where
  maxSlaves := 16
  payloadCap := 64
  fcWriteBlock := Config.fcOfChip
  txbufSize := 71
  nctx := 2
  ptrW := 16

end Sys2Proof
end

