-- ==== Sys2Proof/Syntax.lean ====
section
/-! DEFINITION. The operations and frames: one constructor per row of spec/opcode_table.json. -/

namespace Sys2Proof

/-- The three target forms of `XWRITE` (41_resource_lock.md R78). -/
inductive XTarget where
  /-- `XWRITE OFF, BYTE`. -/
  | byte (off : Nat) (b : Byte)
  /-- `XWRITE TXLEN, v`. -/
  | txlen (v : Half)
  /-- `XWRITE DEST, v`. -/
  | dest (v : Byte)
deriving DecidableEq, Repr

/-- The operation set (30_encoding.md R67), the composite (R69) and the two frame formats (R58, R59). A context number,
a pointer of `PTR_W` bits and a buffer offset are numbers: their widths are OPEN (log entry 21). -/
inductive Instr where
  /-- OPID 0x0, R93. -/
  | issue (i : Nat) (slave : Byte) (baddr : Word) (dptr : Nat) (dsize : Half) (tmo : Word)
  /-- OPID 0x1, R75. -/
  | acquire (i : Nat)
  /-- OPID 0x2, R74. -/
  | build (i : Nat)
  /-- OPID 0x3, R81. -/
  | post (i : Nat)
  /-- OPID 0x4, R83. -/
  | wait (i : Nat)
  /-- OPID 0x5, R84. -/
  | wake (i : Nat)
  /-- OPID 0x6, R90. -/
  | validate (rsp : List Byte) (len : Half)
  /-- OPID 0x7, R86. -/
  | reportRsp (rsp : List Byte) (len : Half)
  /-- OPID 0x8, R87. -/
  | reportExc (code : Exc)
  /-- OPID 0x9, R88. -/
  | reportTmo
  /-- OPID 0xA, R76. -/
  | release
  /-- OPID 0xB, R77. -/
  | xacquire
  /-- OPID 0xC, R78. -/
  | xwrite (target : XTarget)
  /-- OPID 0xD, R79. -/
  | xrelease
  /-- OPID 0xE, R82. -/
  | txread
  /-- OPID 0xF, reserved, R70. -/
  | reservedOpidF
  /-- The composite call, R69, R94. -/
  | wbreq (i : Nat) (slave : Byte) (baddr : Word) (dptr : Nat) (dsize : Half) (tmo : Word)
  /-- A frame of format `REQ`, R58, R62. -/
  | reqFrame (fc : Byte) (baddr : Word) (count : Half) (data : List Byte)
  /-- A frame of format `RSP`, R59. -/
  | rspFrame (fc : Byte) (written : Half)
deriving DecidableEq, Repr

/-- The three formats (R57). -/
inductive Format where
  | op
  | req
  | rsp
deriving DecidableEq, Repr

/-- The agents of R16. -/
inductive Agent where
  | caller
  | engine
  | dispatcher
  | completionPath
  | otherRequester
deriving DecidableEq, Repr

end Sys2Proof
end

