-- ==== Sys2Proof/Machine/Operands.lean ====
section
/-! DEFINITION. Operand forms: byte order (20_memory.md R39), the argument checks (40_request_builder.md R71, R72), the
response check (44_response_validator.md R90), and who initiates what (30_encoding.md R67). -/

namespace Sys2Proof.Machine

/-- `BE16(v)`, R39. -/
def be16 (v : Half) : List Byte := [v.extractLsb' 8 8, v.extractLsb' 0 8]

/-- `BE32(v)`, R39. -/
def be32 (v : Word) : List Byte :=
  [v.extractLsb' 24 8, v.extractLsb' 16 8, v.extractLsb' 8 8, v.extractLsb' 0 8]

/-- `UBE16` of the two bytes in wire order, R17 (`b[0] ++ b[1]`), R39. -/
def ube16 (b0 b1 : Byte) : Half := b0 ++ b1

/-- `UBE32` of the four bytes in wire order, R98. -/
def ube32 (b0 b1 b2 b3 : Byte) : Word := b0 ++ b1 ++ b2 ++ b3

/-- `ARGCHK(slave)`, R71. -/
def argchk (c : Config) (slave : Byte) : Bool := decide (1 ≤ slave.toNat) && decide (slave.toNat ≤ c.maxSlaves)

/-- The three results of `CAPCHK`, R72. -/
inductive CapResult where
  | ok
  | capacity
  | pointer
deriving DecidableEq, Repr

/-- `CAPCHK(dptr, dsize)`, R72: capacity first, then the pointer range, the sum taken without wrap. -/
def capchk (c : Config) (dptr : Nat) (dsize : Half) : CapResult :=
  if c.payloadCap < dsize.toNat then .capacity
  else if 0 < dsize.toNat ∧ 2 ^ c.ptrW < dptr + dsize.toNat then .pointer
  else .ok

/-- Exception `None`, R100. -/
def excNone : Exc := 0x00

/-- Exception `IllegalDataValue`, R100. -/
def excIllegalDataValue : Exc := 0x03

/-- `VALIDATE(rsp, len)`, R90, on the pending registers: length first, then a pending request, then the count. The
answer is `none` exactly where bytes 1 and 2 would be read and `rsp` does not hold them. Byte 0 is not read (R91). -/
def validateRsp (c : Config) (pendValid : Bool) (pendCount : Half) (rsp : List Byte) (len : Half) : Option Exc :=
  if len.toNat ≠ c.pduSizeMin + 2 then some excIllegalDataValue
  else if pendValid = false then some excIllegalDataValue
  else
    match rsp with
    | _ :: hi :: lo :: _ => some (if ube16 hi lo = pendCount then excNone else excIllegalDataValue)
    | _ => none

/-- The bytes of a frame of format `REQ` (R47, R58, R60): function code, address, count, data. -/
def reqBytes (fc : Byte) (baddr : Word) (count : Half) (data : List Byte) : List Byte :=
  fc :: (be32 baddr ++ (be16 count ++ data))

/-- The agent that initiates an operation (R16, R67 column "initiator"). The response frame comes from the dispatcher
(R37 group `rsp`) and the request frame is the transport's to read (R37 group `txbuf`). The reserved identifier names
no operation and has no initiator. -/
def initiator : Instr → Option Agent
  | .issue .. => some .caller
  | .acquire _ => some .engine
  | .build _ => some .engine
  | .post _ => some .engine
  | .wait _ => some .engine
  | .wake _ => some .engine
  | .validate .. => some .dispatcher
  | .reportRsp .. => some .dispatcher
  | .reportExc _ => some .dispatcher
  | .reportTmo => some .dispatcher
  | .release => some .completionPath
  | .xacquire => some .otherRequester
  | .xwrite _ => some .otherRequester
  | .xrelease => some .otherRequester
  | .txread => some .dispatcher
  | .reservedOpidF => none
  | .wbreq .. => some .caller
  | .reqFrame .. => some .dispatcher
  | .rspFrame .. => some .dispatcher

end Sys2Proof.Machine
end

