-- ==== Sys2Proof/WellFormed.lean ====
section
/-! DEFINITION. Which instructions are well-formed: the ranges the spec gives the operands (30_encoding.md R66, R67), and
what an encoding can carry. -/

namespace Sys2Proof

/-- The operands fit the encoding that carries them: `Data` is `ByteCount` bytes (R58). An operation record carries every
value of its operands (log entry 4). -/
def Instr.fits : Instr → Bool
  | .issue .. => true
  | .acquire _ => true
  | .build _ => true
  | .post _ => true
  | .wait _ => true
  | .wake _ => true
  | .validate .. => true
  | .reportRsp .. => true
  | .reportExc _ => true
  | .reportTmo => true
  | .release => true
  | .xacquire => true
  | .xwrite _ => true
  | .xrelease => true
  | .txread => true
  | .reservedOpidF => true
  | .wbreq .. => true
  | .reqFrame _ _ count data => decide (data.length = count.toNat)
  | .rspFrame _ _ => true

/-- The operands lie in the ranges the configuration gives them: a context below `NCTX` (R13), a pointer of `PTR_W` bits
(R15), an offset below `TXBUF_SIZE` (R78), as many data bytes as the count says (R58). `LEN` and the bytes presented are any:
a response of the wrong length need hold no byte at all (R90; log entry 30). `REPORT_EXC` with code 0x00 is presentable and
discarded (R87). -/
def Instr.legal (c : Config) : Instr → Bool
  | .issue i _ _ dptr _ _ => decide (i < c.nctx) && decide (dptr < 2 ^ c.ptrW)
  | .acquire i => decide (i < c.nctx)
  | .build i => decide (i < c.nctx)
  | .post i => decide (i < c.nctx)
  | .wait i => decide (i < c.nctx)
  | .wake i => decide (i < c.nctx)
  | .validate .. => true
  | .reportRsp .. => true
  | .reportExc _ => true
  | .reportTmo => true
  | .release => true
  | .xacquire => true
  | .xwrite (.byte off _) => decide (off < c.txbufSize)
  | .xwrite (.txlen _) => true
  | .xwrite (.dest _) => true
  | .xrelease => true
  | .txread => true
  | .reservedOpidF => true
  | .wbreq i _ _ dptr _ _ => decide (i < c.nctx) && decide (dptr < 2 ^ c.ptrW)
  | .reqFrame _ _ count data => decide (data.length = count.toNat)
  | .rspFrame _ _ => true

end Sys2Proof
end

