-- ==== Sys2Proof/Decode.lean ====
section
/-! DEFINITION. From bytes to operations and frames, total, rejecting by name; then the encoder. The 4-bit `OPID` is the
spec's (30_encoding.md R67), the two frame formats are the spec's (R58, R59); where the rest of an operation record lies
is the model's own (log entry 4): byte 0 holds the `OPID` in bits 3..0 and a form number in bits 7..4, then the operands
in R67's order: an operand of a width the spec fixes in its 1, 2 or 4 bytes, big-endian; one whose width is OPEN (a context
number, a pointer, an offset) in the numeral of `putNat`, which has no largest value; and for a response its `LEN`, then how
many of its bytes are presented, then those bytes (log entry 30). -/

namespace Sys2Proof

open Sys2Proof.Machine (be16 be32 ube16 ube32 reqBytes)

/-- Why bytes are no operation record and no frame. -/
inductive DecodeError where
  /-- No byte at all. -/
  | empty
  /-- The operands end before they are complete. -/
  | truncated
  /-- The form number of byte 0 belongs to no operation (log entry 4). -/
  | reservedForm
  /-- Bytes follow the operation. -/
  | trailing
  /-- A response frame longer than `LEN` can say (R32). -/
  | tooLong
deriving DecidableEq, Repr

/-! ### Fields -/

/-- One byte. -/
def get8 : List Byte → Option (Byte × List Byte)
  | a :: r => some (a, r)
  | _ => none

/-- Two bytes, big-endian. -/
def get16 : List Byte → Option (Half × List Byte)
  | a :: b :: r => some (ube16 a b, r)
  | _ => none

/-- Four bytes, big-endian. -/
def get32 : List Byte → Option (Word × List Byte)
  | a :: b :: c :: d :: r => some (ube32 a b c d, r)
  | _ => none

/-- A number of any size: its low seven bits first, with bit 7 set where `(q + 1) * 128` is still to be added, `q` being the
number that follows. Every number has one such numeral, and every numeral is a number. -/
def getNat : List Byte → Option (Nat × List Byte)
  | [] => none
  | b :: r =>
    if b.toNat < 128 then some (b.toNat, r)
    else
      match getNat r with
      | some (q, r') => some ((q + 1) * 128 + (b.toNat - 128), r')
      | none => none

/-- `n` bytes as they stand. -/
def getBytes : Nat → List Byte → Option (List Byte × List Byte)
  | 0, l => some ([], l)
  | _ + 1, [] => none
  | n + 1, b :: l =>
    match getBytes n l with
    | some (h, t) => some (b :: h, t)
    | none => none

/-! ### Operands of an operation record -/

/-- What an operand reader yields, or "truncated". -/
def orTruncated {α : Type} : Option α → Except DecodeError α
  | some x => .ok x
  | none => .error .truncated

/-- The operands of the operations that name a context only. -/
def getCtx (f : Nat → Instr) (r : List Byte) : Except DecodeError (Instr × List Byte) :=
  orTruncated ((getNat r).map fun p => (f p.1, p.2))

/-- The operands of a call: context, `SLAVE`, `BADDR`, `DPTR`, `DSIZE`, `TMO` (R93). -/
def getCall (f : Nat → Byte → Word → Nat → Half → Word → Instr) (r : List Byte) :
    Except DecodeError (Instr × List Byte) :=
  orTruncated <|
    (getNat r).bind fun i => (get8 i.2).bind fun slave => (get32 slave.2).bind fun baddr =>
      (getNat baddr.2).bind fun dptr => (get16 dptr.2).bind fun dsize => (get32 dsize.2).map fun tmo =>
        (f i.1 slave.1 baddr.1 dptr.1 dsize.1 tmo.1, tmo.2)

/-- The operands `RSP`, `LEN` (R90): `LEN`, and the bytes that are presented, which need not number `LEN` (log entry 30). -/
def getRsp (f : List Byte → Half → Instr) (r : List Byte) : Except DecodeError (Instr × List Byte) :=
  orTruncated ((get16 r).bind fun len => (getNat len.2).bind fun n => (getBytes n.1 n.2).map fun p => (f p.1 len.1, p.2))

/-- The operation with identifier `opid` and form `form` (R67, R70). -/
def decodeOp (opid form : Nat) (r : List Byte) : Except DecodeError (Instr × List Byte) :=
  match opid, form with
  | 0x0, 0 => getCall .issue r
  | 0x0, 1 => getCall .wbreq r
  | 0x1, 0 => getCtx .acquire r
  | 0x2, 0 => getCtx .build r
  | 0x3, 0 => getCtx .post r
  | 0x4, 0 => getCtx .wait r
  | 0x5, 0 => getCtx .wake r
  | 0x6, 0 => getRsp .validate r
  | 0x7, 0 => getRsp .reportRsp r
  | 0x8, 0 => orTruncated ((get8 r).map fun p => (.reportExc p.1, p.2))
  | 0x9, 0 => .ok (.reportTmo, r)
  | 0xA, 0 => .ok (.release, r)
  | 0xB, 0 => .ok (.xacquire, r)
  | 0xC, 0 => orTruncated ((getNat r).bind fun off => (get8 off.2).map fun b => (.xwrite (.byte off.1 b.1), b.2))
  | 0xC, 1 => orTruncated ((get16 r).map fun p => (.xwrite (.txlen p.1), p.2))
  | 0xC, 2 => orTruncated ((get8 r).map fun p => (.xwrite (.dest p.1), p.2))
  | 0xD, 0 => .ok (.xrelease, r)
  | 0xE, 0 => .ok (.txread, r)
  | 0xF, 0 => .ok (.reservedOpidF, r)
  | _, _ => .error .reservedForm

/-- A request frame, R62: byte 0, bytes 1 to 4, bytes 5 and 6, then that many data bytes. -/
def decodeReq (l : List Byte) : Except DecodeError (Instr × List Byte) :=
  orTruncated <|
    (get8 l).bind fun fc => (get32 fc.2).bind fun baddr => (get16 baddr.2).bind fun count =>
      (getBytes count.1.toNat count.2).map fun data => (.reqFrame fc.1 baddr.1 count.1 data.1, data.2)

/-- A response as it is presented with its length: three bytes are a frame of format `RSP` (R59, R62); any other number
of bytes is malformed (R64) and is what `VALIDATE` receives with that `LEN` (log entry 18). -/
def decodeRsp (l : List Byte) : Except DecodeError (Instr × List Byte) :=
  match l with
  | [fc, hi, lo] => .ok (.rspFrame fc (ube16 hi lo), [])
  | _ => if l.length < 2 ^ 16 then .ok (.validate l (BitVec.ofNat 16 l.length), []) else .error .tooLong

/-- The decoder: the operation or frame that the bytes begin with, and the bytes after it. -/
def decode (f : Format) (l : List Byte) : Except DecodeError (Instr × List Byte) :=
  match f with
  | .op =>
    match l with
    | [] => .error .empty
    | b :: r => decodeOp (b.toNat % 16) (b.toNat / 16) r
  | .req => decodeReq l
  | .rsp => decodeRsp l

/-- The operation or frame that exactly these bytes are. -/
def decodeAll (f : Format) (l : List Byte) : Except DecodeError Instr :=
  match decode f l with
  | .ok (i, []) => .ok i
  | .ok (_, _ :: _) => .error .trailing
  | .error e => .error e

/-! ### The encoder -/

/-- The format an instruction is of (R57). -/
def Instr.format : Instr → Format
  | .reqFrame .. => .req
  | .rspFrame .. => .rsp
  | .issue .. | .acquire _ | .build _ | .post _ | .wait _ | .wake _ | .validate .. | .reportRsp .. | .reportExc _
  | .reportTmo | .release | .xacquire | .xwrite _ | .xrelease | .txread | .reservedOpidF | .wbreq .. => .op

/-- The 4-bit identifier of an operation (R67, R70). The composite has none of its own (R67): on the command interface it
appears with the nibble of its first operation `ISSUE` (spec/opcode_table.json). A frame has none. -/
def Instr.opid : Instr → Option (BitVec 4)
  | .issue .. => some 0x0
  | .acquire _ => some 0x1
  | .build _ => some 0x2
  | .post _ => some 0x3
  | .wait _ => some 0x4
  | .wake _ => some 0x5
  | .validate .. => some 0x6
  | .reportRsp .. => some 0x7
  | .reportExc _ => some 0x8
  | .reportTmo => some 0x9
  | .release => some 0xA
  | .xacquire => some 0xB
  | .xwrite _ => some 0xC
  | .xrelease => some 0xD
  | .txread => some 0xE
  | .reservedOpidF => some 0xF
  | .wbreq .. => none
  | .reqFrame .. => none
  | .rspFrame .. => none

/-- Byte 0 of a record: the form above the identifier. -/
def head (form opid : BitVec 4) : Byte := form ++ opid

/-- The numeral of `n` that `getNat` reads; the fuel is above `n`. -/
def putNatFuel : Nat → Nat → List Byte
  | 0, _ => []
  | f + 1, n =>
    if n < 128 then [BitVec.ofNat 8 n] else BitVec.ofNat 8 (128 + n % 128) :: putNatFuel f (n / 128 - 1)

/-- A context number, a pointer, an offset, or how many bytes follow. -/
def putNat (n : Nat) : List Byte := putNatFuel (n + 1) n

/-- The operands `RSP`, `LEN`, R90. -/
def putRsp (rsp : List Byte) (len : Half) : List Byte := be16 len ++ (putNat rsp.length ++ rsp)

/-- The operands of a call, R93. -/
def putCall (i : Nat) (slave : Byte) (baddr : Word) (dptr : Nat) (dsize : Half) (tmo : Word) : List Byte :=
  putNat i ++ (slave :: (be32 baddr ++ (putNat dptr ++ (be16 dsize ++ be32 tmo))))

/-- The bytes of an operation record or frame. -/
def encode : Instr → List Byte
  | .issue i slave baddr dptr dsize tmo => head 0 0x0 :: putCall i slave baddr dptr dsize tmo
  | .acquire i => head 0 0x1 :: putNat i
  | .build i => head 0 0x2 :: putNat i
  | .post i => head 0 0x3 :: putNat i
  | .wait i => head 0 0x4 :: putNat i
  | .wake i => head 0 0x5 :: putNat i
  | .validate rsp len => head 0 0x6 :: putRsp rsp len
  | .reportRsp rsp len => head 0 0x7 :: putRsp rsp len
  | .reportExc code => [head 0 0x8, code]
  | .reportTmo => [head 0 0x9]
  | .release => [head 0 0xA]
  | .xacquire => [head 0 0xB]
  | .xwrite (.byte off b) => head 0 0xC :: (putNat off ++ [b])
  | .xwrite (.txlen v) => head 1 0xC :: be16 v
  | .xwrite (.dest v) => [head 2 0xC, v]
  | .xrelease => [head 0 0xD]
  | .txread => [head 0 0xE]
  | .reservedOpidF => [head 0 0xF]
  | .wbreq i slave baddr dptr dsize tmo => head 1 0x0 :: putCall i slave baddr dptr dsize tmo
  | .reqFrame fc baddr count data => reqBytes fc baddr count data
  | .rspFrame fc written => fc :: be16 written

/-! ### The opcode table's numbering -/

/-- The first `n` bytes of a table word, bit 0 being the least significant bit of the first byte. -/
def tableBytes : Nat → Nat → List Byte
  | 0, _ => []
  | n + 1, w => BitVec.ofNat 8 w :: tableBytes n (w / 256)

/-- Which format a table row of `nbits` bits is of: the two frames are the rows of 24 and 56 bits (log entry 28). -/
def tableFormat (nbits : Nat) : Format :=
  if nbits = 24 then .rsp else if nbits = 56 then .req else .op

/-- The instruction the decoder reads from the table word `w`, every bit above `nbits` being 0. A response frame has no
bits above the table's (R59: it is 3 bytes). -/
def decodeTableWord (nbits w : Nat) : Option Instr :=
  let bytes := tableBytes ((nbits + 7) / 8) w
  let padded :=
    match tableFormat nbits with
    | .rsp => bytes
    | .op | .req => bytes ++ List.replicate 65535 0
  match decode (tableFormat nbits) padded with
  | .ok (i, _) => some i
  | .error _ => none

end Sys2Proof
end

