-- ==== Sys2Proof/Machine/State.lean ====
section
/-! DEFINITION. The state of the block, 10_state.md R18 to R31, its inputs, the reasons a step stops, and reset (R35). -/

namespace Sys2Proof.Machine

/-- A byte memory: (address, byte) pairs, addresses strictly rising. An address that is not listed holds no written
byte; what it reads as is a free value (log entries 10 and 11). -/
abbrev Memory := List Host.Cell

/-- The canonical form. An entry always says "written", which no unlisted address does, so equal memories are equal data. -/
abbrev Memory.wf (m : Memory) : Prop := m.Pairwise (fun x y => x.1 < y.1)

/-- `LOCK.OWNER`, R19. -/
inductive Owner where
  | none
  | ext
  | ctx (i : Nat)
deriving DecidableEq, Repr

/-- `FAULT`, R26. -/
inductive FaultReg where
  | none
  | capacity (i : Nat)
  | pointer (i : Nat)
deriving DecidableEq, Repr

/-- `STATE[i]`, R27. -/
inductive Phase where
  | idle
  | acquiring
  | serializing
  | locked
  | sent
  | awaiting
  | faulted
deriving DecidableEq, Repr

/-- `OUTCOME[i]`, R29. -/
inductive OutcomeReg where
  | empty
  | success
  | protocolException
  | timeout
deriving DecidableEq, Repr

/-- RequestErrorCode, 60_exceptions.md R99. -/
inductive ErrorCode where
  | noError
  | illegalArgument
  | masterBusy
  | timeout
  | protocolException
deriving DecidableEq, Repr

/-- The kind of a discarded report, R31. -/
inductive ReportKind where
  | rsp
  | exc
  | tmo
deriving DecidableEq, Repr

/-- An entry of `EVLOG`, R31. -/
inductive Event where
  | txEvent (i : Nat)
  | discarded (kind : ReportKind)
deriving DecidableEq, Repr

/-- `ARG[i]`, R28. `DPTR` is a number below `2^PTR_W` (log entry 21). -/
structure Arg where
  slave : Byte
  baddr : Word
  dptr : Nat
  dsize : Half
  tmo : Word
deriving DecidableEq, Repr

/-- The registers of one context, R27 to R30. -/
structure Ctx where
  /-- `STATE[i]`, R27. -/
  phase : Phase
  /-- `ARG[i]`, R28. -/
  arg : Arg
  /-- `OUTCOME[i]`, R29. -/
  outcome : OutcomeReg
  /-- `RESULT[i]`, R30. -/
  result : ErrorCode
  /-- `RESULT_VALID[i]`, R30. -/
  resultValid : Bool
deriving DecidableEq, Repr

/-- The result of an operation as 30_encoding.md R68 writes it after `=>`, on the interfaces of 10_state.md R37. The
model's own record of the latest operation (log entry 13). -/
inductive Response where
  /-- No operation since reset. -/
  | none
  /-- Done; the operation has no result to give. -/
  | done
  /-- `ACQUIRE => ok`. -/
  | ok
  /-- `ISSUE`, `REPORT_EXC`, `REPORT_TMO` `=> accepted`. -/
  | accepted
  /-- `REPORT_RSP => accepted(outcome)`, with the verdict output on `exc` (R86). -/
  | acceptedOutcome (o : OutcomeReg) (exc : Exc)
  /-- A call returned this code (R108). -/
  | returned (code : ErrorCode)
  /-- `ISSUE => fault` (R93). -/
  | faulted
  /-- A report was dropped (R89); a response's verdict is output on `exc`. -/
  | discarded (exc : Option Exc)
  /-- The verdict of `VALIDATE` (R90). -/
  | verdict (exc : Exc)
  /-- `TXREAD => (DEST, TXLEN, TXBUF)` (R82). -/
  | frame (dest : Byte) (txlen : Half) (bytes : List Byte)
  /-- Whether a request frame is the one resident in `TXBUF` (R62; log entry 19). -/
  | resident (same : Bool)
  /-- The enabling condition is false: the operation has no step (R70; log entry 7). -/
  | refused
  /-- The context is blocked (R97; log entry 8). -/
  | blocked
deriving DecidableEq, Repr

/-- What the outside presents to the block (10_state.md R37; log entry 3). -/
inductive Input where
  /-- An operation record, format `OP`. -/
  | op (bytes : List Byte)
  /-- A response presented by the dispatcher, format `RSP`. -/
  | rsp (bytes : List Byte)
  /-- A request frame held against the resident one, format `REQ`. -/
  | req (bytes : List Byte)
  /-- The owner of `CDATA` writes a byte of it (R36; log entry 20). -/
  | cdata (addr : Nat) (b : Byte)
  /-- The reset input (R115). -/
  | reset
deriving DecidableEq, Repr

/-- The state: the registers of R18, `EVLOG`, the caller's data space, the parameters, and the model's own fields. -/
structure State where
  /-- The parameters of R6 to R15; no step changes them (R117). -/
  cfg : Config
  /-- `LOCK.OWNER`, R19. -/
  lockOwner : Owner
  /-- `LOCK.REPORTED`, R20. -/
  lockReported : Bool
  /-- `TXBUF`, R21. -/
  txbuf : Memory
  /-- `TXLEN`, R22. -/
  txlen : Half
  /-- `DEST`, R23. -/
  dest : Byte
  /-- `PEND.VALID`, R24. -/
  pendValid : Bool
  /-- `PEND.COUNT`, R25. -/
  pendCount : Half
  /-- `FAULT`, R26. -/
  fault : FaultReg
  /-- The contexts `0 .. NCTX-1`, R13, R27 to R30. -/
  ctxs : List Ctx
  /-- `EVLOG`, R31, oldest first. -/
  evlog : List Event
  /-- `CDATA`, R32: an input, owned by the caller. -/
  cdata : Memory
  /-- The model's own: the result of the latest operation (log entry 13). -/
  out : Response
  /-- The model's own: the contexts whose caller is inside `WBREQ`, in the order their engines move (R94; log entry 6). -/
  calls : List Nat
  /-- The model's own: what is presented next, oldest first (log entry 3). -/
  inputs : List Input
  /-- The model's own: how many free choices were taken (log entry 9). -/
  draws : Nat
  /-- The model's own: how many resets happened (log entry 10). -/
  epoch : Nat
deriving DecidableEq, Repr

/-- Why a step stops: an access to something the spec says does not exist. Each is safe: the model stops (log entry 17). -/
inductive Fault where
  /-- Raised by the operations that name a context: the number is not below `NCTX` (R13). Safe. -/
  | noSuchContext
  /-- Raised by `BUILD` and by a caller's write: an address outside `CDATA` (R32, R52). Safe. -/
  | cdataOutside
  /-- Raised by `BUILD` and `XWRITE`: an offset outside `TXBUF` (R21, R78). Safe. -/
  | txbufOutside
  /-- Raised by `VALIDATE` and `REPORT_RSP`: with `LEN` 3 and a request pending, byte 1 or 2 of the response is to be read
  and was not presented (R32, R90; log entry 30). Safe. -/
  | rspByteAbsent
deriving DecidableEq, Repr

/-- Why the machine refuses. Each is safe: the model stops. -/
inductive Refusal where
  /-- Raised by `exec` for an instruction without a meaning: none is left. Safe. -/
  | notModelled (mnemonic : String)
  /-- Raised by the reserved identifier 0xF, which names no operation (R70). Safe. -/
  | reservedOpid
  /-- Raised by a step whose input is no operation record and no frame (log entry 27). Safe. -/
  | undecodable (why : DecodeError)
  /-- Raised by a step whose input has an operand outside its range (R66, R67; log entry 27). Safe. -/
  | illFormed
  /-- Raised by a step in which `CDATA` bytes would change between `ISSUE` and `BUILD`: the environment is assumed never
  to do it (R118 (d), U18; log entry 20). Safe for the run that does it: nothing is concluded. -/
  | callerDataHeld
deriving DecidableEq, Repr

/-- `ARG[i]` after reset: unspecified in the spec (R28, R35, U3); zero by DESIGN CHOICE (log entry 12). -/
def Arg.reset : Arg := { slave := 0, baddr := 0, dptr := 0, dsize := 0, tmo := 0 }

/-- A context after reset, R35. -/
def Ctx.reset : Ctx :=
  { phase := .idle, arg := Arg.reset, outcome := .empty, result := .noError, resultValid := false }

/-- The machine right after reset, R35, R115, in any configuration. -/
def State.resetWith (c : Config) : State where
  cfg := c
  lockOwner := .none
  lockReported := false
  txbuf := []
  txlen := 0
  dest := 0
  pendValid := false
  pendCount := 0
  fault := .none
  ctxs := List.replicate c.nctx Ctx.reset
  evlog := []
  cdata := []
  out := .none
  calls := []
  inputs := []
  draws := 0
  epoch := 0

/-- The machine right after reset, in the configuration of log entry 1. -/
def State.reset : State := State.resetWith Config.vectorsA

end Sys2Proof.Machine
end

