-- ==== Sys2Proof/Machine/Ops.lean ====
section
/-! DEFINITION. The operations every meaning is made of: memories, contexts, the lock, the pending registers, the end of a
call (the block's form of an exception, 60_exceptions.md R108) and the recording of a violated precondition (R102). -/

namespace Sys2Proof.Machine

/-- The outcome of an operation on this machine. -/
abbrev Out := Host.Outcome State Fault Refusal

/-! ### Byte memories -/

/-- The written byte at an address, if there is one. -/
def Memory.get : Memory → Nat → Option Byte
  | [], _ => none
  | (k, b) :: r, a => if k = a then some b else Memory.get r a

/-- Write one byte, keeping the canonical form. -/
def Memory.set : Memory → Nat → Byte → Memory
  | [], a, b => [(a, b)]
  | (k, v) :: r, a, b =>
    if a < k then (a, b) :: (k, v) :: r
    else if a = k then (a, b) :: r
    else (k, v) :: Memory.set r a b

/-- `MemWrite(S, a, n, v)`: the bytes at ascending addresses from `a` (20_memory.md R43). -/
def Memory.write : Memory → Nat → List Byte → Memory
  | m, _, [] => m
  | m, a, b :: r => Memory.write (Memory.set m a b) (a + 1) r

/-- `MemRead(S, a, n)` through a reader of one byte (R43). -/
def readBytes (f : Nat → Byte) (a n : Nat) : List Byte := (List.range n).map fun k => f (a + k)

/-- One byte of `TXBUF`; a byte nothing has written since reset is the draw fixed at that reset (R21, U2). -/
def State.txByte (s : State) (off : Nat) : Byte := (s.txbuf.get off).getD (Config.txbufByte s.epoch off)

/-- One byte of `CDATA` (R32); what no listed write gave is free (log entry 11). -/
def State.cdataByte (s : State) (a : Nat) : Byte := (s.cdata.get a).getD (Config.cdataByte a)

/-! ### Register writes -/

/-- Write the registers of context `i`. -/
def State.setCtx (s : State) (i : Nat) (c : Ctx) : State := { s with ctxs := s.ctxs.set i c }

/-- Write `LOCK.OWNER` and `LOCK.REPORTED`. -/
def State.setLock (s : State) (o : Owner) (reported : Bool) : State :=
  { s with lockOwner := o, lockReported := reported }

/-- Write `PEND.VALID` and `PEND.COUNT`. -/
def State.setPend (s : State) (valid : Bool) (count : Half) : State :=
  { s with pendValid := valid, pendCount := count }

/-- Write the shared transmit state `TXBUF`, `TXLEN`, `DEST`. -/
def State.setTx (s : State) (buf : Memory) (len : Half) (dest : Byte) : State :=
  { s with txbuf := buf, txlen := len, dest := dest }

/-- Record a fault: the first one is kept (R26). -/
def State.setFault (s : State) (f : FaultReg) : State :=
  { s with fault := if s.fault = .none then f else s.fault }

/-- `emit <event>` (R17, R31). -/
def State.emit (s : State) (e : Event) : State := { s with evlog := s.evlog ++ [e] }

/-- Give the operation's result (R68). -/
def State.respond (s : State) (r : Response) : State := { s with out := r }

/-- A caller enters `WBREQ` (R94). -/
def State.addCall (s : State) (i : Nat) : State := { s with calls := s.calls ++ [i] }

/-- The call of context `i` has ended. -/
def State.endCall (s : State) (i : Nat) : State := { s with calls := s.calls.filter (· ≠ i) }

/-- A free choice was taken. -/
def State.draw (s : State) : State := { s with draws := s.draws + 1 }

/-! ### Shared steps -/

/-- Act on the registers of context `i`; a context that does not exist is an access the spec has none for (R13). -/
def onCtx (i : Nat) (s : State) (f : Ctx → Out) : Out :=
  match s.ctxs[i]? with
  | some c => f c
  | none => .fault .noSuchContext

/-- The enabling condition is false: no step of the block (R70, U9). Nothing changes but the result given. -/
def refuse (s : State) : Out := .next (s.respond .refused)

/-- The context is blocked: no step of the block until another agent moves (R97, U9). -/
def block (s : State) : Out := .next (s.respond .blocked)

/-- `return <code>` (R17, R108): `RESULT[i]`, `RESULT_VALID[i]`, `STATE[i] <- IDLE`. There is no handler, no saved
context and nothing to restore (R109). -/
def returnCode (i : Nat) (c : Ctx) (code : ErrorCode) (s : State) : State :=
  ((s.setCtx i { c with phase := .idle, result := code, resultValid := true }).endCall i).respond (.returned code)

/-- `fault <reason>` (R17, R26, R93): the sticky register, the context stops, the call never yields a result. -/
def raiseFault (i : Nat) (c : Ctx) (f : FaultReg) (s : State) : State :=
  ((s.setFault f).setCtx i { c with phase := .faulted, resultValid := false }).respond .faulted

/-- The acceptance condition `ACC(i)` of 43_completion_wait.md: the context that satisfies it, with its registers. -/
def accepting (s : State) : Option (Nat × Ctx) :=
  match s.lockOwner with
  | .ctx i =>
    match s.ctxs[i]? with
    | some c => if (c.phase = .sent ∨ c.phase = .awaiting) ∧ s.lockReported = false then some (i, c) else none
    | none => none
  | .ext => none
  | .none => none

/-- An accepted report (R86 to R88): the outcome is latched, the slot may be released, nothing is pending any more. -/
def report (i : Nat) (c : Ctx) (o : OutcomeReg) (r : Response) (s : State) : State :=
  (((s.setCtx i { c with outcome := o }).setLock s.lockOwner true).setPend false s.pendCount).respond r

/-- A report that is not accepted (R89): only the event. -/
def discardReport (kind : ReportKind) (exc : Option Exc) (s : State) : State :=
  (s.emit (.discarded kind)).respond (.discarded exc)

/-- The reset input (R115, R116): every register of R35 at its reset value. The parameters, the caller's memory and what
the other agents still present are not the block's to reset; the unspecified bytes are drawn anew (log entry 15). -/
def resetInPlace (s : State) : State :=
  { State.resetWith s.cfg with cdata := s.cdata, inputs := s.inputs, draws := s.draws, epoch := s.epoch + 1 }

end Sys2Proof.Machine
end

