-- ==== Sys2Proof/Machine/Flags.lean ====
section
/-! DEFINITION. The status registers: what an outcome translates to (43_completion_wait.md R85) and the numeric codes of
the fields (10_state.md R19, R26, R27, R29; 60_exceptions.md R99). -/

namespace Sys2Proof.Machine

/-- `translate`, R85. `EMPTY` is never translated. -/
def translateOutcome : OutcomeReg → Option ErrorCode
  | .empty => none
  | .success => some .noError
  | .protocolException => some .protocolException
  | .timeout => some .timeout

/-- The outcome a validator's verdict gives (R86): `None` is success, anything else a protocol exception. -/
def outcomeOf (e : Exc) : OutcomeReg := if e = excNone then .success else .protocolException

/-- The code of `STATE[i]`, 3 bits (R27). -/
def Phase.code : Phase → BitVec 3
  | .idle => 0
  | .acquiring => 1
  | .serializing => 2
  | .locked => 3
  | .sent => 4
  | .awaiting => 5
  | .faulted => 7

/-- The code of `OUTCOME[i]`, 2 bits (R29). -/
def OutcomeReg.code : OutcomeReg → BitVec 2
  | .empty => 0
  | .success => 1
  | .protocolException => 2
  | .timeout => 3

/-- The code of `RESULT[i]`, 3 bits (R99). -/
def ErrorCode.code : ErrorCode → BitVec 3
  | .noError => 0
  | .illegalArgument => 1
  | .masterBusy => 2
  | .timeout => 3
  | .protocolException => 4

/-- The code of `LOCK.OWNER` (R19); its width is `ceil(log2(NCTX + 2))` bits. -/
def Owner.code : Owner → Nat
  | .none => 0
  | .ext => 1
  | .ctx i => i + 2

/-- The width of `LOCK.OWNER` in bits (R19). -/
def Owner.width (c : Config) : Nat := Nat.clog 2 (c.nctx + 2)

/-- The kind field of `FAULT`, 2 bits (R26). -/
def FaultReg.kind : FaultReg → BitVec 2
  | .none => 0
  | .capacity _ => 1
  | .pointer _ => 2

/-- The context field of `FAULT` (R26). -/
def FaultReg.context : FaultReg → Option Nat
  | .none => Option.none
  | .capacity i => some i
  | .pointer i => some i

end Sys2Proof.Machine
end

