-- ==== Sys2Proof/Machine/Builder.lean ====
section
/-! DEFINITION. 40_request_builder.md: `BUILD`. -/

namespace Sys2Proof.Machine

/-- The data bytes `D[k] = MemRead(CDATA, DPTR + k, 1)` of a call (20_memory.md R52, R60). -/
def callData (s : State) (a : Arg) : List Byte := readBytes s.cdataByte a.dptr a.dsize.toNat

/-- The request of a call (R47, R60). -/
def requestBytes (s : State) (a : Arg) : List Byte := reqBytes s.cfg.fcWriteBlock a.baddr a.dsize (callData s a)

/-- The writes of `BUILD` (R74), all together. -/
def buildRequest (i : Nat) (c : Ctx) (s : State) : State :=
  (((s.setTx (s.txbuf.write 0 (requestBytes s c.arg)) (s.cfg.reqLenBase + c.arg.dsize) c.arg.slave).setPend
    true c.arg.dsize).setCtx i { c with phase := .locked }).respond .done

/-- `BUILD i`, R74. The two stops are accesses outside the spaces; the checks of `ISSUE` keep every run from them. -/
def execBuild (i : Nat) (s : State) : Out :=
  onCtx i s fun c =>
    if c.phase ≠ .serializing then refuse s
    else if 0 < c.arg.dsize.toNat ∧ 2 ^ s.cfg.ptrW < c.arg.dptr + c.arg.dsize.toNat then .fault .cdataOutside
    else if s.cfg.txbufSize < 7 + c.arg.dsize.toNat then .fault .txbufOutside
    else .next (buildRequest i c s)

end Sys2Proof.Machine
end

