-- ==== Sys2Proof/Machine/Completion.lean ====
section
/-! DEFINITION. 43_completion_wait.md: `WAIT`, `WAKE`, `REPORT_RSP`, `REPORT_EXC`, `REPORT_TMO`. -/

namespace Sys2Proof.Machine

/-- `WAIT i`, R83. -/
def execWait (i : Nat) (s : State) : Out :=
  onCtx i s fun c =>
    if c.phase = .sent then .next ((s.setCtx i { c with phase := .awaiting }).respond .done) else refuse s

/-- `WAKE i`, R84: blocked while the outcome is empty. -/
def execWake (i : Nat) (s : State) : Out :=
  onCtx i s fun c =>
    if c.phase = .awaiting then
      match translateOutcome c.outcome with
      | some code => .next (returnCode i { c with outcome := .empty } code s)
      | none => block s
    else refuse s

/-- `REPORT_RSP rsp, len`, R86: `VALIDATE` on the state before; accepted under `ACC(i)`, else discarded (R89). -/
def execReportRsp (rsp : List Byte) (len : Half) (s : State) : Out :=
  match validateRsp s.cfg s.pendValid s.pendCount rsp len with
  | none => .fault .rspByteAbsent
  | some e =>
    match accepting s with
    | some (i, c) => .next (report i c (outcomeOf e) (.acceptedOutcome (outcomeOf e) e) s)
    | none => .next (discardReport .rsp (some e) s)

/-- `REPORT_EXC code`, R87: code 0x00 is no exception and is discarded (R89). -/
def execReportExc (code : Exc) (s : State) : Out :=
  match accepting s with
  | some (i, c) =>
    if code = excNone then .next (discardReport .exc none s)
    else .next (report i c .protocolException .accepted s)
  | none => .next (discardReport .exc none s)

/-- `REPORT_TMO`, R88. -/
def execReportTmo (s : State) : Out :=
  match accepting s with
  | some (i, c) => .next (report i c .timeout .accepted s)
  | none => .next (discardReport .tmo none s)

end Sys2Proof.Machine
end

