-- ==== Sys2Proof/Machine/Lock.lean ====
section
/-! DEFINITION. 41_resource_lock.md: `ACQUIRE`, `RELEASE`, `XACQUIRE`, `XWRITE`, `XRELEASE`. -/

namespace Sys2Proof.Machine

/-- The ok arm of `ACQUIRE` (R75). -/
def takeSlot (i : Nat) (c : Ctx) (s : State) : State :=
  ((s.setLock (.ctx i) false).setCtx i { c with phase := .serializing }).respond .ok

/-- `ACQUIRE i`, R75. With the slot held and a finite timeout the state does not determine whether the timeout has
expired: that is a free value (U6; log entry 9). -/
def execAcquire (i : Nat) (s : State) : Out :=
  onCtx i s fun c =>
    if c.phase ≠ .acquiring then refuse s
    else if s.lockOwner = .none then .next (takeSlot i c s)
    else if c.arg.tmo = s.cfg.infiniteWait then block s
    else if Config.lockTimeoutExpired s.draws = true then .next (returnCode i c .masterBusy s.draw)
    else block s.draw

/-- `RELEASE`, R76. -/
def execRelease (s : State) : Out :=
  match s.lockOwner with
  | .ctx _ => if s.lockReported = true then .next ((s.setLock .none false).respond .done) else refuse s
  | .ext => refuse s
  | .none => refuse s

/-- `XACQUIRE`, R77. -/
def execXacquire (s : State) : Out :=
  if s.lockOwner = .none then .next ((s.setLock .ext false).respond .done) else refuse s

/-- `XWRITE`, R78: one of three targets. -/
def execXwrite (target : XTarget) (s : State) : Out :=
  if s.lockOwner = .ext then
    match target with
    | .byte off b =>
      if off < s.cfg.txbufSize then .next ((s.setTx (s.txbuf.write off [b]) s.txlen s.dest).respond .done)
      else .fault .txbufOutside
    | .txlen v => .next ((s.setTx s.txbuf v s.dest).respond .done)
    | .dest v => .next ((s.setTx s.txbuf s.txlen v).respond .done)
  else refuse s

/-- `XRELEASE`, R79. -/
def execXrelease (s : State) : Out :=
  if s.lockOwner = .ext then .next ((s.setLock .none s.lockReported).respond .done) else refuse s

end Sys2Proof.Machine
end

