-- ==== Sys2Proof/Machine/Notifier.lean ====
section
/-! DEFINITION. 42_event_notifier.md: `POST` and `TXREAD`. -/

namespace Sys2Proof.Machine

/-- `POST i`, R81. -/
def execPost (i : Nat) (s : State) : Out :=
  onCtx i s fun c =>
    if c.phase = .locked then
      .next (((s.emit (.txEvent i)).setCtx i { c with phase := .sent }).respond .done)
    else refuse s

/-- `TXREAD`, R82: the triple of `DEST`, `TXLEN` and all bytes of `TXBUF`; nothing changes. -/
def execTxread (s : State) : Out :=
  .next (s.respond (.frame s.dest s.txlen (readBytes s.txByte 0 s.cfg.txbufSize)))

end Sys2Proof.Machine
end

