-- ==== Sys2Proof/Machine/Sequencer.lean ====
section
/-! DEFINITION. 45_request_sequencer.md: `ISSUE` and the composite `WBREQ`. -/

namespace Sys2Proof.Machine

/-- The accepted arm of `ISSUE` (R93). -/
def beginCall (i : Nat) (c : Ctx) (a : Arg) (s : State) : State :=
  (s.setCtx i { c with phase := .acquiring, arg := a, outcome := .empty, resultValid := false }).respond .accepted

/-- The call entry (R93): the checks in R106's order, then the arm `accepted`. -/
def enterCall (accepted : Ctx → State) (i : Nat) (slave : Byte) (dptr : Nat) (dsize : Half) (s : State) : Out :=
  onCtx i s fun c =>
    if c.phase ≠ .idle then refuse s
    else if argchk s.cfg slave = false then .next (returnCode i c .illegalArgument s)
    else
      match capchk s.cfg dptr dsize with
      | .capacity => .next (raiseFault i c (.capacity i) s)
      | .pointer => .next (raiseFault i c (.pointer i) s)
      | .ok => .next (accepted c)

/-- `ISSUE`, R93. -/
def execIssue (i : Nat) (slave : Byte) (baddr : Word) (dptr : Nat) (dsize : Half) (tmo : Word) (s : State) : Out :=
  enterCall (fun c => beginCall i c { slave, baddr, dptr, dsize, tmo } s) i slave dptr dsize s

/-- `WBREQ`, R94: the call entry of `ISSUE`; if it is accepted the caller stays in the call and the engine's `ACQUIRE`,
`BUILD`, `POST`, `WAIT`, `WAKE` follow, each a step of its own with any other agents' steps between (`engineTurn`),
until the call returns (log entry 6). -/
def execWbreq (i : Nat) (slave : Byte) (baddr : Word) (dptr : Nat) (dsize : Half) (tmo : Word) (s : State) : Out :=
  enterCall (fun c => (beginCall i c { slave, baddr, dptr, dsize, tmo } s).addCall i) i slave dptr dsize s

/-- The engine's next operation for a context (R95): the one operation its `STATE` enables. -/
def engineOp (i : Nat) : Phase → Option Instr
  | .acquiring => some (.acquire i)
  | .serializing => some (.build i)
  | .locked => some (.post i)
  | .sent => some (.wait i)
  | .awaiting => some (.wake i)
  | .idle => none
  | .faulted => none

end Sys2Proof.Machine
end

