-- ==== Sys2Proof/Machine/Validator.lean ====
section
/-! DEFINITION. 44_response_validator.md: `VALIDATE`, and the two wire frames (30_encoding.md R58, R59). -/

namespace Sys2Proof.Machine

/-- A verdict on a presented response; nothing changes (R90). -/
def giveVerdict (rsp : List Byte) (len : Half) (s : State) : Out :=
  match validateRsp s.cfg s.pendValid s.pendCount rsp len with
  | some e => .next (s.respond (.verdict e))
  | none => .fault .rspByteAbsent

/-- `VALIDATE rsp, len`, R90. -/
def execValidate (rsp : List Byte) (len : Half) (s : State) : Out := giveVerdict rsp len s

/-- A frame of format `RSP` (R59), which the block parses by `VALIDATE` with its three bytes (R62; log entry 18). -/
def execRspFrame (fc : Byte) (written : Half) (s : State) : Out := giveVerdict (fc :: be16 written) 3 s

/-- A frame of format `REQ` (R58). The block never decodes a request; the format serves to check the builder (R62): the
frame is held against the bytes resident in `TXBUF`, and nothing changes (log entry 19). -/
def execReqFrame (fc : Byte) (baddr : Word) (count : Half) (data : List Byte) (s : State) : Out :=
  let frame := reqBytes fc baddr count data
  .next (s.respond (.resident (decide (frame.length ≤ s.cfg.txbufSize) && decide (readBytes s.txByte 0 frame.length = frame))))

/-- The reserved identifier, R70: it names no operation and is refused. -/
def execReservedOpidF (_s : State) : Out := .refused .reservedOpid

end Sys2Proof.Machine
end

