-- ==== Sys2Proof/Machine/Dispatch.lean ====
section
/-! DEFINITION. One arm per row of spec/opcode_table.json. -/

namespace Sys2Proof.Machine

def exec (i : Instr) (s : State) : Host.Outcome State Fault Refusal :=
  match i with
  | .issue c slave baddr dptr dsize tmo => Sys2Proof.Machine.execIssue c slave baddr dptr dsize tmo s
  | .acquire c => Sys2Proof.Machine.execAcquire c s
  | .build c => Sys2Proof.Machine.execBuild c s
  | .post c => Sys2Proof.Machine.execPost c s
  | .wait c => Sys2Proof.Machine.execWait c s
  | .wake c => Sys2Proof.Machine.execWake c s
  | .validate rsp len => Sys2Proof.Machine.execValidate rsp len s
  | .reportRsp rsp len => Sys2Proof.Machine.execReportRsp rsp len s
  | .reportExc code => Sys2Proof.Machine.execReportExc code s
  | .reportTmo => Sys2Proof.Machine.execReportTmo s
  | .release => Sys2Proof.Machine.execRelease s
  | .xacquire => Sys2Proof.Machine.execXacquire s
  | .xwrite target => Sys2Proof.Machine.execXwrite target s
  | .xrelease => Sys2Proof.Machine.execXrelease s
  | .txread => Sys2Proof.Machine.execTxread s
  | .reservedOpidF => Sys2Proof.Machine.execReservedOpidF s
  | .wbreq c slave baddr dptr dsize tmo => Sys2Proof.Machine.execWbreq c slave baddr dptr dsize tmo s
  | .reqFrame fc baddr count data => Sys2Proof.Machine.execReqFrame fc baddr count data s
  | .rspFrame fc written => Sys2Proof.Machine.execRspFrame fc written s

end Sys2Proof.Machine
end

