-- ==== Sys2Proof/Machine/Present.lean ====
section
/-! DEFINITION. How a presented input becomes a step (10_state.md R37, log entry 3), and how the engines move by themselves
inside a composite call (45_request_sequencer.md R94, log entry 6). -/

namespace Sys2Proof.Machine

/-- Run the operation or frame these bytes are. -/
def runBytes (f : Format) (bytes : List Byte) (s : State) : Out :=
  match decodeAll f bytes with
  | .ok i => if i.legal s.cfg = true then exec i s else .refused .illFormed
  | .error e => .refused (.undecodable e)

/-- Whether a byte of `CDATA` lies in the data of a call between its `ISSUE` and its `BUILD` (R118 (d)). -/
def dataHeld (s : State) (addr : Nat) : Bool :=
  s.ctxs.any fun c =>
    (decide (c.phase = .acquiring) || decide (c.phase = .serializing)) &&
      (decide (c.arg.dptr ≤ addr) && decide (addr < c.arg.dptr + c.arg.dsize.toNat))

/-- The owner of `CDATA` writes one byte of it (R36); not a register of the block changes, and no result is given. -/
def callerWrite (addr : Nat) (b : Byte) (s : State) : Out :=
  if 2 ^ s.cfg.ptrW ≤ addr then .fault .cdataOutside
  else if dataHeld s addr = true then .refused .callerDataHeld
  else .next { s with cdata := s.cdata.set addr b }

/-- One presented input. -/
def present (x : Input) (s : State) : Out :=
  match x with
  | .op bytes => runBytes .op bytes s
  | .rsp bytes => runBytes .rsp bytes s
  | .req bytes => runBytes .req bytes s
  | .cdata addr b => callerWrite addr b s
  | .reset => .next (resetInPlace s)

/-- Nothing is presented: the engine of the first composite call makes its next operation and goes to the back of the
order; a call that has ended leaves the order; with no call, the block waits and nothing changes (R115). -/
def engineTurn (s : State) : Out :=
  match s.calls with
  | [] => .next s
  | i :: rest =>
    match (s.ctxs[i]?).bind fun c => engineOp i c.phase with
    | some op => exec op { s with calls := rest ++ [i] }
    | none => .next { s with calls := rest }

/-- The interface a format is presented on (R37). -/
def inputOf (f : Format) (bytes : List Byte) : Input :=
  match f with
  | .op => .op bytes
  | .rsp => .rsp bytes
  | .req => .req bytes

end Sys2Proof.Machine
end

