-- ==== Sys2Proof/Machine/Step.lean ====
section
/-! DEFINITION. One step: the oldest presented input; with none, the engine of a composite call. -/

namespace Sys2Proof.Machine

/-- One step of the machine (00_scope.md R5, 20_memory.md R44, R53: one atomic operation on one copy of the state). -/
def step (s : State) : Host.Outcome State Fault Refusal :=
  match s.inputs with
  | x :: rest => present x { s with inputs := rest }
  | [] => engineTurn s

/-- `s` with the instruction of the table word presented as the very next input (log entry 16). -/
def State.withFetchWord (s : State) (nbits w : Nat) : State :=
  match decodeTableWord nbits w with
  | some i => { s with inputs := inputOf i.format (encode i) :: s.inputs }
  | none => { s with inputs := inputOf (tableFormat nbits) (tableBytes ((nbits + 7) / 8) w) :: s.inputs }

end Sys2Proof.Machine
end

