-- ==== Sys2Proof/Safety.lean ====
section
/-! DEFINITION. What counts as a safe state and a finished run: in flight, blocked, at rest (45_request_sequencer.md R97) and
the invariants of 10_state.md R34. -/

namespace Sys2Proof.Safety

open Sys2Proof.Machine

/-- A context is in flight (R34 I-1). -/
abbrev InFlight (c : Ctx) : Prop :=
  c.phase = .serializing ∨ c.phase = .locked ∨ ((c.phase = .sent ∨ c.phase = .awaiting) ∧ c.outcome = .empty)

/-- `ACC(i)` of 43_completion_wait.md. -/
def Accepts (s : State) (i : Nat) : Prop :=
  s.lockOwner = .ctx i ∧ s.lockReported = false ∧
    ∃ c : Ctx, s.ctxs[i]? = some c ∧ (c.phase = .sent ∨ c.phase = .awaiting)

/-- A context is blocked (R97). -/
def Blocked (s : State) (c : Ctx) : Prop :=
  (c.phase = .acquiring ∧ s.lockOwner ≠ .none ∧ c.arg.tmo = s.cfg.infiniteWait) ∨
    (c.phase = .awaiting ∧ c.outcome = .empty)

/-- A call is finished (R97). -/
def Finished (c : Ctx) : Prop := c.resultValid = true

/-- A call that a caller presents: an `ISSUE` or a `WBREQ`, the operations a caller initiates (R16, R67). -/
def isCall (x : Input) : Bool :=
  match x with
  | .op bytes =>
    match decodeAll .op bytes with
    | .ok i => decide (initiator i = some .caller)
    | .error _ => false
  | .rsp _ => false
  | .req _ => false
  | .cdata _ _ => false
  | .reset => false

/-- The machine is at rest (R97): every context idle with no call pending from its caller, neither a composite in progress nor
an `ISSUE` or `WBREQ` still presented (log entry 29), the slot free, no fault recorded. What else is presented, a stray report,
a read, a caller's write, does not bear on it. -/
def AtRest (s : State) : Prop :=
  (∀ c ∈ s.ctxs, c.phase = .idle) ∧ s.calls = [] ∧ (∀ x ∈ s.inputs, isCall x = false) ∧ s.lockOwner = .none ∧ s.fault = .none

/-- The shared transmit state is the same (R54). -/
abbrev SameTx (s t : State) : Prop := t.txbuf = s.txbuf ∧ t.txlen = s.txlen ∧ t.dest = s.dest

/-- The lock is the same. -/
abbrev SameLock (s t : State) : Prop := t.lockOwner = s.lockOwner ∧ t.lockReported = s.lockReported

/-- The pending-response context is the same. -/
abbrev SamePend (s t : State) : Prop := t.pendValid = s.pendValid ∧ t.pendCount = s.pendCount

/-- The operations of a list one after the other; none where one of them stops. An execution is such a sequence (R53). -/
def runOps : List Instr → State → Option State
  | [], s => some s
  | i :: r, s =>
    match exec i s with
    | .next t => runOps r t
    | .fault _ => none
    | .refused _ => none

/-- The invariants of R34, with what the machine's layout adds: the contexts number `NCTX`, the memories are in canonical
form inside their spaces, the operands of a call in progress passed the checks of `ISSUE`, and `calls` lists calls in progress. -/
structure Invariant (s : State) : Prop where
  /-- The parameters meet the constraints of R6 to R15. -/
  cfgLegal : s.cfg.Legal
  /-- There are `NCTX` contexts (R13). -/
  ctxCount : s.ctxs.length = s.cfg.nctx
  /-- `TXBUF` is in canonical form and holds offsets below `TXBUF_SIZE` only (R21). -/
  txbufWf : s.txbuf.wf ∧ ∀ x ∈ s.txbuf, x.1 < s.cfg.txbufSize
  /-- `CDATA` is in canonical form and holds addresses below `2^PTR_W` only (R32). -/
  cdataWf : s.cdata.wf ∧ ∀ x ∈ s.cdata, x.1 < 2 ^ s.cfg.ptrW
  /-- `CTX(i)` names a context (R19). -/
  ownerExists : ∀ i, s.lockOwner = .ctx i → i < s.ctxs.length
  /-- I-1. -/
  inFlightOwns : ∀ (i : Nat) (c : Ctx), s.ctxs[i]? = some c → InFlight c → s.lockOwner = .ctx i ∧ s.lockReported = false
  /-- I-3. -/
  pendMeans : s.pendValid = true → ∃ (i : Nat) (c : Ctx), s.lockOwner = .ctx i ∧ s.ctxs[i]? = some c ∧
    (c.phase = .locked ∨ c.phase = .sent ∨ c.phase = .awaiting) ∧ s.lockReported = false ∧ c.outcome = .empty ∧
    s.pendCount = c.arg.dsize ∧ readBytes s.txByte 5 2 = be16 s.pendCount
  /-- A built request whose outcome is open is pending (R24, and the definition of `ACC(i)` in 43_completion_wait.md). -/
  builtIsPending : ∀ (i : Nat) (c : Ctx), s.ctxs[i]? = some c → (c.phase = .locked ∨ c.phase = .sent ∨ c.phase = .awaiting) →
    c.outcome = .empty → s.pendValid = true
  /-- An owner whose outcome is latched is reported (R20, and the definition of `ACC(i)`). -/
  latchedIsReported : ∀ (i : Nat) (c : Ctx), s.lockOwner = .ctx i → s.ctxs[i]? = some c → c.outcome ≠ .empty → s.lockReported = true
  /-- I-4. -/
  reportedMeans : s.lockReported = true → (∃ i, s.lockOwner = .ctx i) ∧ s.pendValid = false
  /-- I-5. -/
  outcomeMeans : ∀ (i : Nat) (c : Ctx), s.ctxs[i]? = some c → c.outcome ≠ .empty → c.phase = .sent ∨ c.phase = .awaiting
  /-- I-6. -/
  validMeans : ∀ (i : Nat) (c : Ctx), s.ctxs[i]? = some c → c.resultValid = true → c.phase = .idle
  /-- I-7. -/
  faultedMeans : ∀ (i : Nat) (c : Ctx), s.ctxs[i]? = some c → c.phase = .faulted → s.fault ≠ .none
  /-- `DPTR` has `PTR_W` bits (R28). -/
  pointerFits : ∀ (i : Nat) (c : Ctx), s.ctxs[i]? = some c → c.arg.dptr < 2 ^ s.cfg.ptrW
  /-- The operands of a call in progress passed the checks (R71, R72, R93). -/
  argsChecked : ∀ (i : Nat) (c : Ctx), s.ctxs[i]? = some c → c.phase ≠ .idle → c.phase ≠ .faulted →
    argchk s.cfg c.arg.slave = true ∧ capchk s.cfg c.arg.dptr c.arg.dsize = .ok
  /-- The composite calls in progress, each once (the model's own). -/
  callsRunning : s.calls.Nodup ∧
    ∀ i ∈ s.calls, ∃ c : Ctx, s.ctxs[i]? = some c ∧ c.phase ≠ .idle ∧ c.phase ≠ .faulted

end Sys2Proof.Safety
end

