-- ==== Sys2Proof/Certificates/Slice0/Obligations.lean ====
section
/-! DEFINITION. The statements for the provers. -/

open Sys2Proof Sys2Proof.Machine Sys2Proof.Safety Host

/-! ### Encoding -/

/-- Decoding the encoding of a well-formed operation or frame gives it back, every operand at every value, however large the
configuration (the operand bytes of a record are the model's layout, log entry 4). -/
def Obligations.DecodeEncodeAgree : Prop :=
  ∀ i : Instr, i.fits = true → decodeAll i.format (encode i) = .ok i

/-- An operation record or request frame has one reading, and it is well-formed: no bit of it is ignored (the operand bytes of
a record are the model's layout, log entry 4). -/
def Obligations.DecodedBytesReencode : Prop :=
  ∀ (f : Format) (bytes : List Byte) (i : Instr), f ≠ .rsp → decodeAll f bytes = .ok i →
    i.fits = true ∧ i.format = f ∧ encode i = bytes

/-- Whatever the decoder accepts is well-formed, whichever interface the bytes came on; a response is read as the frame of its
three bytes, or, of another length, as a `VALIDATE` of all its bytes with that `LEN` (R59, R64; log entry 18). -/
def Obligations.DecodedIsWellFormed : Prop :=
  ∀ (f : Format) (bytes : List Byte) (i : Instr), decodeAll f bytes = .ok i → i.fits = true ∧
    (f = .rsp → (∃ fc hi lo, bytes = [fc, hi, lo] ∧ i = .rspFrame fc (ube16 hi lo)) ∨
      (bytes.length ≠ 3 ∧ ∃ len : Half, len.toNat = bytes.length ∧ i = .validate bytes len))

/-- A few words written out from R57 to R59 and R67. The OPID nibble and the two frame layouts are the spec's; how a table
word is read (its format from its number of bits, zero bytes for the operands the table gives no bits, hence context 0) is
the model's choice, log entry 28, and the operand bytes of a record are the model's layout, log entry 4. -/
def Obligations.SampleWordsDecode : Prop :=
  decodeTableWord 8 0x0E = some .txread ∧ decodeTableWord 8 0x0A = some .release ∧
  decodeTableWord 8 0x0F = some .reservedOpidF ∧ decodeTableWord 8 0x03 = some (.post 0) ∧
  decodeTableWord 24 0x1000FC = some (.rspFrame 0xFC 0x0010) ∧
  decodeTableWord 56 0x000078563412FC = some (.reqFrame 0xFC 0x12345678 0 [])

/-- R39, whole: the byte sequences of `BE32` and `BE16`, the value of `UBE16`, and the round trip. -/
def Obligations.BigEndianByteOrder : Prop :=
  (∀ v : Word, be32 v = [v.extractLsb' 24 8, v.extractLsb' 16 8, v.extractLsb' 8 8, v.extractLsb' 0 8]) ∧
  (∀ v : Half, be16 v = [v.extractLsb' 8 8, v.extractLsb' 0 8]) ∧
  (∀ b0 b1 : Byte, ube16 b0 b1 = b0.zeroExtend 16 * 256 + b1.zeroExtend 16) ∧
  (∀ v : Half, ∃ b0 b1, be16 v = [b0, b1] ∧ ube16 b0 b1 = v)

/-- The 32-bit counterpart used by R98 P1: `UBE32` of the four bytes of `BE32(v)` is `v`. -/
def Obligations.BigEndianAddressRoundTrip : Prop :=
  ∀ v : Word, ∃ b0 b1 b2 b3, be32 v = [b0, b1, b2, b3] ∧ ube32 b0 b1 b2 b3 = v ∧
    (ube32 b0 b1 b2 b3).toNat = b0.toNat * 2 ^ 24 + b1.toNat * 2 ^ 16 + b2.toNat * 2 ^ 8 + b3.toNat

/-- The numeric codes of R19, R26, R27, R29 and R99: the tables' numbers, that they tell the values apart, and that the
reserved codes are never produced. -/
def Obligations.StatusCodesAreDistinct : Prop :=
  (Phase.idle.code = 0 ∧ Phase.acquiring.code = 1 ∧ Phase.serializing.code = 2 ∧ Phase.locked.code = 3 ∧
    Phase.sent.code = 4 ∧ Phase.awaiting.code = 5 ∧ Phase.faulted.code = 7) ∧
  (OutcomeReg.empty.code = 0 ∧ OutcomeReg.success.code = 1 ∧ OutcomeReg.protocolException.code = 2 ∧
    OutcomeReg.timeout.code = 3) ∧
  (ErrorCode.noError.code = 0 ∧ ErrorCode.illegalArgument.code = 1 ∧ ErrorCode.masterBusy.code = 2 ∧
    ErrorCode.timeout.code = 3 ∧ ErrorCode.protocolException.code = 4) ∧
  (Owner.none.code = 0 ∧ Owner.ext.code = 1 ∧ ∀ i, (Owner.ctx i).code = i + 2) ∧
  (FaultReg.none.kind = 0 ∧ FaultReg.none.context = Option.none ∧
    (∀ i, (FaultReg.capacity i).kind = 1 ∧ (FaultReg.capacity i).context = some i) ∧
    ∀ i, (FaultReg.pointer i).kind = 2 ∧ (FaultReg.pointer i).context = some i) ∧
  (∀ p q : Phase, p.code = q.code → p = q) ∧ (∀ p : Phase, p.code ≠ 6) ∧
  (∀ p q : OutcomeReg, p.code = q.code → p = q) ∧
  (∀ p q : ErrorCode, p.code = q.code → p = q) ∧ (∀ p : ErrorCode, p.code.toNat < 5) ∧
  (∀ p q : Owner, p.code = q.code → p = q) ∧
  (∀ (c : Config) (p : Owner), (∀ i, p = .ctx i → i < c.nctx) → p.code < 2 ^ Owner.width c) ∧
  (∀ p : FaultReg, p.kind ≠ 3) ∧ (∀ p q : FaultReg, p.kind = q.kind → p.context = q.context → p = q)

/-! ### Call entry -/

/-- R93 with the checks of R71 and R72: every arm of `ISSUE`, its next state in full. That an operation which is not enabled
answers a next state with the result "refused" is the model's choice, log entry 7; `out` and `calls` are the model's own
fields, log entries 13 and 6. -/
def Obligations.IssueArms : Prop :=
  ∀ (s : State) (i : Nat) (c : Ctx) (slave : Byte) (baddr : Word) (dptr : Nat) (dsize : Half) (tmo : Word),
    s.ctxs[i]? = some c →
    let call := Instr.issue i slave baddr dptr dsize tmo
    call.opid = some 0x0 ∧
    (c.phase ≠ .idle → exec call s = .next { s with out := .refused }) ∧
    (c.phase = .idle → ¬ (1 ≤ slave.toNat ∧ slave.toNat ≤ s.cfg.maxSlaves) →
      exec call s = .next { s with
        ctxs := s.ctxs.set i { c with phase := .idle, result := .illegalArgument, resultValid := true }
        calls := s.calls.filter (· ≠ i)
        out := .returned .illegalArgument }) ∧
    (c.phase = .idle → 1 ≤ slave.toNat → slave.toNat ≤ s.cfg.maxSlaves → s.cfg.payloadCap < dsize.toNat →
      exec call s = .next { s with
        ctxs := s.ctxs.set i { c with phase := .faulted, resultValid := false }
        fault := if s.fault = .none then .capacity i else s.fault
        out := .faulted }) ∧
    (c.phase = .idle → 1 ≤ slave.toNat → slave.toNat ≤ s.cfg.maxSlaves → dsize.toNat ≤ s.cfg.payloadCap →
      0 < dsize.toNat → 2 ^ s.cfg.ptrW < dptr + dsize.toNat →
      exec call s = .next { s with
        ctxs := s.ctxs.set i { c with phase := .faulted, resultValid := false }
        fault := if s.fault = .none then .pointer i else s.fault
        out := .faulted }) ∧
    (c.phase = .idle → 1 ≤ slave.toNat → slave.toNat ≤ s.cfg.maxSlaves → dsize.toNat ≤ s.cfg.payloadCap →
      (dsize.toNat = 0 ∨ dptr + dsize.toNat ≤ 2 ^ s.cfg.ptrW) →
      exec call s = .next { s with
        ctxs := s.ctxs.set i { c with
          phase := .acquiring
          arg := { slave := slave, baddr := baddr, dptr := dptr, dsize := dsize, tmo := tmo }
          outcome := .empty
          resultValid := false }
        out := .accepted })

/-- The entry of the composite (R94): as `ISSUE`, arm by arm, its refused arm included (log entry 7); an accepted call stays
with the engine, whose operations follow. How the model keeps it (`calls`) is its own choice, log entry 6. -/
def Obligations.WbreqEntersAsIssue : Prop :=
  ∀ (s : State) (i : Nat) (c : Ctx) (slave : Byte) (baddr : Word) (dptr : Nat) (dsize : Half) (tmo : Word),
    s.ctxs[i]? = some c →
    (∃ t, exec (.issue i slave baddr dptr dsize tmo) s = .next t ∧
      exec (.wbreq i slave baddr dptr dsize tmo) s =
        .next { t with calls := if t.out = .accepted then s.calls ++ [i] else t.calls }) ∧
    (c.phase = .idle → 1 ≤ slave.toNat → slave.toNat ≤ s.cfg.maxSlaves → dsize.toNat ≤ s.cfg.payloadCap →
      (dsize.toNat = 0 ∨ dptr + dsize.toNat ≤ 2 ^ s.cfg.ptrW) →
      exec (.wbreq i slave baddr dptr dsize tmo) s = .next { s with
        ctxs := s.ctxs.set i { c with
          phase := .acquiring
          arg := { slave := slave, baddr := baddr, dptr := dptr, dsize := dsize, tmo := tmo }
          outcome := .empty
          resultValid := false }
        calls := s.calls ++ [i]
        out := .accepted })

/-- Under the invariant a composite call whose slot is free and whose machine is left alone runs to the completion wait:
four engine steps acquire, build, post and wait, and the frame is in the buffer (R94; the engine's own moves are log
entry 6). -/
def Obligations.WbreqRunsToTheWait : Prop :=
  ∀ (s : State) (i : Nat) (c : Ctx), Invariant s → s.inputs = [] → s.calls = [i] → s.ctxs[i]? = some c →
    c.phase = .acquiring → s.lockOwner = .none →
    ∃ t, Core.run Sys2Proof.core 4 s = .next t ∧
      t.ctxs = s.ctxs.set i { c with phase := .awaiting } ∧ t.calls = [i] ∧
      t.lockOwner = .ctx i ∧ t.lockReported = false ∧ t.evlog = s.evlog ++ [.txEvent i] ∧
      t.pendValid = true ∧ t.pendCount = c.arg.dsize ∧ t.dest = c.arg.slave ∧ t.txlen = 6 + c.arg.dsize ∧
      readBytes t.txByte 0 (7 + c.arg.dsize.toNat) =
        reqBytes s.cfg.fcWriteBlock c.arg.baddr c.arg.dsize (readBytes s.cdataByte c.arg.dptr c.arg.dsize.toNat)

/-- The composite's end (R94): with the outcome latched, the engine's next step returns `translate(OUTCOME[i])`, the next state
in full: the call leaves the calls in progress, the others keep their order, and the slot is not released by it. The engine's
own moves are log entry 6. -/
def Obligations.WbreqReturnsTheOutcome : Prop :=
  ∀ (s : State) (i : Nat) (rest : List Nat) (c : Ctx) (code : ErrorCode), s.inputs = [] → s.calls = i :: rest →
    s.ctxs[i]? = some c → c.phase = .awaiting → translateOutcome c.outcome = some code →
    step s = .next { s with
      ctxs := s.ctxs.set i { c with phase := .idle, outcome := .empty, result := code, resultValid := true }
      calls := rest.filter (· ≠ i)
      out := .returned code }

/-! ### Lock -/

/-- R75: both arms of `ACQUIRE`, the block, and where it has no step. With the slot held and a finite timeout either
"MasterBusy" or "no step yet" happens, whichever the free value says. That "no step" is a next state with the result "refused"
or "blocked" is the model's choice, log entries 7 and 8; the counter `draws` is log entry 9, `calls` and `out` are the model's
own fields, log entries 6 and 13. -/
def Obligations.AcquireArms : Prop :=
  ∀ (s : State) (i : Nat) (c : Ctx), s.ctxs[i]? = some c →
    (Instr.acquire i).opid = some 0x1 ∧
    (c.phase ≠ .acquiring → exec (.acquire i) s = .next { s with out := .refused }) ∧
    (c.phase = .acquiring → s.lockOwner = .none →
      exec (.acquire i) s = .next { s with
        lockOwner := .ctx i
        lockReported := false
        ctxs := s.ctxs.set i { c with phase := .serializing }
        out := .ok }) ∧
    (c.phase = .acquiring → s.lockOwner ≠ .none → c.arg.tmo = s.cfg.infiniteWait →
      exec (.acquire i) s = .next { s with out := .blocked }) ∧
    (c.phase = .acquiring → s.lockOwner ≠ .none → c.arg.tmo ≠ s.cfg.infiniteWait →
      exec (.acquire i) s = .next { s with draws := s.draws + 1, out := .blocked } ∨
      exec (.acquire i) s = .next { s with
        ctxs := s.ctxs.set i { c with phase := .idle, result := .masterBusy, resultValid := true }
        calls := s.calls.filter (· ≠ i)
        draws := s.draws + 1
        out := .returned .masterBusy })

/-- R76: `RELEASE` frees a reported slot of a context and nothing else. Where it is not enabled, the next state with the result
"refused" is the model's choice, log entry 7. -/
def Obligations.ReleaseFreesReportedSlot : Prop :=
  ∀ s : State, Instr.release.opid = some 0xA ∧
    (∀ i, s.lockOwner = .ctx i → s.lockReported = true →
      exec .release s = .next { s with lockOwner := .none, lockReported := false, out := .done }) ∧
    (((∀ i, s.lockOwner ≠ .ctx i) ∨ s.lockReported = false) → exec .release s = .next { s with out := .refused })

/-- R77: `XACQUIRE` takes a free slot for another function. Where it is not enabled, the next state with the result
"refused" is the model's choice, log entry 7. -/
def Obligations.XacquireTakesFreeSlot : Prop :=
  ∀ s : State, Instr.xacquire.opid = some 0xB ∧
    (s.lockOwner = .none → exec .xacquire s = .next { s with lockOwner := .ext, lockReported := false, out := .done }) ∧
    (s.lockOwner ≠ .none → exec .xacquire s = .next { s with out := .refused })

/-- R78: the three targets of `XWRITE`, the byte target told through the read of one byte of `TXBUF`. Where it is not enabled, the next state with the result
"refused" is the model's choice, log entry 7. -/
def Obligations.XwriteTargets : Prop :=
  ∀ s : State, (∀ x, (Instr.xwrite x).opid = some 0xC) ∧
    (s.lockOwner = .ext → ∀ off b, off < s.cfg.txbufSize →
      ∃ t, exec (.xwrite (.byte off b)) s = .next t ∧ t = { s with txbuf := t.txbuf, out := .done } ∧
        t.txByte off = b ∧ ∀ a, a ≠ off → t.txByte a = s.txByte a) ∧
    (s.lockOwner = .ext → ∀ v, exec (.xwrite (.txlen v)) s = .next { s with txlen := v, out := .done }) ∧
    (s.lockOwner = .ext → ∀ v, exec (.xwrite (.dest v)) s = .next { s with dest := v, out := .done }) ∧
    (s.lockOwner ≠ .ext → ∀ x, exec (.xwrite x) s = .next { s with out := .refused })

/-- R79: `XRELEASE` frees the slot of another function; `LOCK.REPORTED` is not written. Where it is not enabled, the next state with the result
"refused" is the model's choice, log entry 7. -/
def Obligations.XreleaseFreesExternalSlot : Prop :=
  ∀ s : State, Instr.xrelease.opid = some 0xD ∧
    (s.lockOwner = .ext → exec .xrelease s = .next { s with lockOwner := .none, out := .done }) ∧
    (s.lockOwner ≠ .ext → exec .xrelease s = .next { s with out := .refused })

/-! ### Builder -/

/-- R74 with the map of R47: `BUILD` completes on operands that passed the checks, and says every register and every
byte of the buffer afterwards. Where it is not enabled, the next state with the result
"refused" is the model's choice, log entry 7. -/
def Obligations.BuildWritesRequest : Prop :=
  ∀ (s : State) (i : Nat) (c : Ctx), s.ctxs[i]? = some c →
    (Instr.build i).opid = some 0x2 ∧
    (c.phase ≠ .serializing → exec (.build i) s = .next { s with out := .refused }) ∧
    (c.phase = .serializing → s.cfg.Legal → c.arg.dsize.toNat ≤ s.cfg.payloadCap →
      (c.arg.dsize.toNat = 0 ∨ c.arg.dptr + c.arg.dsize.toNat ≤ 2 ^ s.cfg.ptrW) →
      ∃ t, exec (.build i) s = .next t ∧
        t = { s with
          txbuf := t.txbuf
          txlen := 6 + c.arg.dsize
          dest := c.arg.slave
          pendValid := true
          pendCount := c.arg.dsize
          ctxs := s.ctxs.set i { c with phase := .locked }
          out := .done } ∧
        t.txByte 0 = s.cfg.fcWriteBlock ∧
        t.txByte 1 = c.arg.baddr.extractLsb' 24 8 ∧ t.txByte 2 = c.arg.baddr.extractLsb' 16 8 ∧
        t.txByte 3 = c.arg.baddr.extractLsb' 8 8 ∧ t.txByte 4 = c.arg.baddr.extractLsb' 0 8 ∧
        t.txByte 5 = c.arg.dsize.extractLsb' 8 8 ∧ t.txByte 6 = c.arg.dsize.extractLsb' 0 8 ∧
        (∀ k, k < c.arg.dsize.toNat → t.txByte (7 + k) = s.cdataByte (c.arg.dptr + k)) ∧
        (∀ off, 7 + c.arg.dsize.toNat ≤ off → t.txByte off = s.txByte off))

/-- R49: whenever `BUILD` answers a next state, every byte of `TXBUF` outside the request it stores is kept. The length
of the stored request is computed as the meaning computes it. -/
def Obligations.BuildKeepsTheTail : Prop :=
  ∀ (s t : State) (i : Nat) (c : Ctx), s.ctxs[i]? = some c → exec (.build i) s = .next t →
    ∀ off, (requestBytes s c.arg).length ≤ off → t.txByte off = s.txByte off

/-- R98 P1, read back by R62: after `BUILD` the resident bytes decode as a request frame whose address, count and data are
the call's, and the recorded length is 6 + `DSIZE`. -/
def Obligations.BuiltRequestDecodes : Prop :=
  ∀ (s t : State) (i : Nat) (c : Ctx), s.ctxs[i]? = some c → c.phase = .serializing → s.cfg.reqLenBase = 6 →
    exec (.build i) s = .next t →
    decodeAll .req (readBytes t.txByte 0 (7 + c.arg.dsize.toNat)) =
      .ok (.reqFrame s.cfg.fcWriteBlock c.arg.baddr c.arg.dsize (callData s c.arg)) ∧
    t.txlen = 6 + c.arg.dsize

/-! ### Event and transport -/

/-- R81: `POST` emits one transmit event and moves the context on; nothing else changes. Where it is not enabled, the next state with the result
"refused" is the model's choice, log entry 7. -/
def Obligations.PostEmitsOneEvent : Prop :=
  ∀ (s : State) (i : Nat) (c : Ctx), s.ctxs[i]? = some c →
    (Instr.post i).opid = some 0x3 ∧
    (c.phase = .locked →
      exec (.post i) s = .next { s with
        evlog := s.evlog ++ [.txEvent i]
        ctxs := s.ctxs.set i { c with phase := .sent }
        out := .done }) ∧
    (c.phase ≠ .locked → exec (.post i) s = .next { s with out := .refused })

/-- R82: `TXREAD` is always enabled, changes no state and gives the resident triple. -/
def Obligations.TxreadGivesResidentFrame : Prop :=
  ∀ s : State, Instr.txread.opid = some 0xE ∧
    ∃ bytes, exec .txread s = .next { s with out := .frame s.dest s.txlen bytes } ∧
      bytes.length = s.cfg.txbufSize ∧ ∀ k, k < s.cfg.txbufSize → bytes[k]? = some (s.txByte k)

/-- R56: a `TXREAD` sees what a `BUILD` left, whatever operations but `BUILD` and `XWRITE` ran between. -/
def Obligations.TransmitStateSurvives : Prop :=
  ∀ (ops : List Instr) (s t : State),
    (∀ i ∈ ops, (∀ k, i ≠ .build k) ∧ (∀ x, i ≠ .xwrite x)) → runOps ops s = some t →
    SameTx s t ∧ ∀ off, t.txByte off = s.txByte off

/-! ### Completion -/

/-- R83: `WAIT` enters the wait. Where it is not enabled, the next state with the result
"refused" is the model's choice, log entry 7. -/
def Obligations.WaitEntersTheWait : Prop :=
  ∀ (s : State) (i : Nat) (c : Ctx), s.ctxs[i]? = some c →
    (Instr.wait i).opid = some 0x4 ∧
    (c.phase = .sent →
      exec (.wait i) s = .next { s with ctxs := s.ctxs.set i { c with phase := .awaiting }, out := .done }) ∧
    (c.phase ≠ .sent → exec (.wait i) s = .next { s with out := .refused })

/-- R84 with the table of R85: `WAKE` returns the translated outcome, or stays blocked while it is empty. That "no step" is a
next state with the result "blocked" or "refused" is the model's choice, log entries 8 and 7. -/
def Obligations.WakeReturnsOutcome : Prop :=
  ∀ (s : State) (i : Nat) (c : Ctx), s.ctxs[i]? = some c →
    let woken (code : ErrorCode) : State := { s with
      ctxs := s.ctxs.set i { c with phase := .idle, outcome := .empty, result := code, resultValid := true }
      calls := s.calls.filter (· ≠ i)
      out := .returned code }
    (Instr.wake i).opid = some 0x5 ∧
    (c.phase = .awaiting → c.outcome = .success → exec (.wake i) s = .next (woken .noError)) ∧
    (c.phase = .awaiting → c.outcome = .protocolException → exec (.wake i) s = .next (woken .protocolException)) ∧
    (c.phase = .awaiting → c.outcome = .timeout → exec (.wake i) s = .next (woken .timeout)) ∧
    (c.phase = .awaiting → c.outcome = .empty → exec (.wake i) s = .next { s with out := .blocked }) ∧
    (c.phase ≠ .awaiting → exec (.wake i) s = .next { s with out := .refused })

/-- R90: the verdict of `VALIDATE` in the order of its checks, and that no state changes. A response of the wrong length, or
with nothing pending, need hold no byte at all; with length 3 and a request pending the verdict is `None` exactly if the counts
agree, whatever byte 0 is. (Without bytes 1 and 2 there: `ResponseWithoutItsBytesFaults`.) That nothing pending gives
`IllegalDataValue` is the arm R90 calls its own, log entry 24; the numbers 0x00 and 0x03 are general knowledge, log entry 23. -/
def Obligations.ValidateVerdict : Prop :=
  ∀ (s : State) (rsp : List Byte) (len : Half), s.cfg.pduSizeMin = 1 →
    (Instr.validate rsp len).opid = some 0x6 ∧
    (len ≠ 3 → exec (.validate rsp len) s = .next { s with out := .verdict 0x03 }) ∧
    (s.pendValid = false → exec (.validate rsp len) s = .next { s with out := .verdict 0x03 }) ∧
    (∀ b0 b1 b2 more, len = 3 → s.pendValid = true → rsp = b0 :: b1 :: b2 :: more →
      (ube16 b1 b2 = s.pendCount → exec (.validate rsp len) s = .next { s with out := .verdict 0x00 }) ∧
      (ube16 b1 b2 ≠ s.pendCount → exec (.validate rsp len) s = .next { s with out := .verdict 0x03 }))

/-- R91, R63: the result is the same for every value of `rsp[0]`, for `VALIDATE` and for the report. That it is so for a
presented response frame too rests on the model's reading of the frame as a `VALIDATE`, log entry 18. -/
def Obligations.FunctionCodeOfResponseIsNotRead : Prop :=
  ∀ (s : State) (b b' : Byte) (rest : List Byte) (len written : Half),
    exec (.validate (b :: rest) len) s = exec (.validate (b' :: rest) len) s ∧
    exec (.reportRsp (b :: rest) len) s = exec (.reportRsp (b' :: rest) len) s ∧
    exec (.rspFrame b written) s = exec (.rspFrame b' written) s

/-- R86 and the part of R89 on it: an accepted response latches its outcome and outputs the verdict; a discarded one only
logs and outputs the verdict. `e` is the verdict of R90 on the state before, for every response whose bytes 1 and 2 are there
if they are read. That `None` gives success and any other exception a protocol exception is what R86 marks as derived; the
verdict with nothing pending is log entry 24, the numbers 0x00 and 0x03 are general knowledge, log entry 23. -/
def Obligations.ReportRspArms : Prop :=
  ∀ (s : State) (rsp : List Byte) (len : Half), s.cfg.pduSizeMin = 1 →
    (len = 3 → s.pendValid = true → 3 ≤ rsp.length) →
    let e : Exc := if len = 3 ∧ s.pendValid = true ∧ ube16 (rsp.getD 1 0) (rsp.getD 2 0) = s.pendCount then 0x00 else 0x03
    (Instr.reportRsp rsp len).opid = some 0x7 ∧
    (∀ (i : Nat) (c : Ctx), Accepts s i → s.ctxs[i]? = some c →
      exec (.reportRsp rsp len) s = .next { s with
        ctxs := s.ctxs.set i { c with outcome := if e = 0x00 then .success else .protocolException }
        lockReported := true
        pendValid := false
        out := .acceptedOutcome (if e = 0x00 then .success else .protocolException) e }) ∧
    ((∀ i, ¬ Accepts s i) →
      exec (.reportRsp rsp len) s = .next { s with
        evlog := s.evlog ++ [.discarded .rsp]
        out := .discarded (some e) })

/-- R87 and the part of R89 on it. -/
def Obligations.ReportExcArms : Prop :=
  ∀ (s : State) (code : Exc), (Instr.reportExc code).opid = some 0x8 ∧
    (∀ (i : Nat) (c : Ctx), Accepts s i → s.ctxs[i]? = some c → code ≠ 0x00 →
      exec (.reportExc code) s = .next { s with
        ctxs := s.ctxs.set i { c with outcome := .protocolException }
        lockReported := true
        pendValid := false
        out := .accepted }) ∧
    (((∀ i, ¬ Accepts s i) ∨ code = 0x00) →
      exec (.reportExc code) s = .next { s with
        evlog := s.evlog ++ [.discarded .exc]
        out := .discarded none })

/-- R88 and the part of R89 on it; `TMO` plays no part. -/
def Obligations.ReportTmoArms : Prop :=
  ∀ s : State, Instr.reportTmo.opid = some 0x9 ∧
    (∀ (i : Nat) (c : Ctx), Accepts s i → s.ctxs[i]? = some c →
      exec .reportTmo s = .next { s with
        ctxs := s.ctxs.set i { c with outcome := .timeout }
        lockReported := true
        pendValid := false
        out := .accepted }) ∧
    ((∀ i, ¬ Accepts s i) →
      exec .reportTmo s = .next { s with
        evlog := s.evlog ++ [.discarded .tmo]
        out := .discarded none })

/-- After an accepted report (which sets `LOCK.REPORTED`) no later report is accepted, whatever operations run, until some
`ACQUIRE` takes the slot anew: the first report wins (R89, R107). -/
def Obligations.FirstReportWins : Prop :=
  ∀ (ops : List Instr) (s t : State), s.lockReported = true → (∀ i ∈ ops, ∀ k, i ≠ .acquire k) →
    runOps ops s = some t →
    ∀ rsp len code u, (exec (.reportRsp rsp len) t = .next u ∨ exec (.reportExc code) t = .next u ∨
      exec .reportTmo t = .next u) → u.ctxs = t.ctxs ∧ u.lockReported = t.lockReported ∧ u.pendValid = t.pendValid

/-! ### The reserved identifier, the frames -/

/-- R70: OPID 0xF names no operation and is refused, and so is the step it is presented to. -/
def Obligations.ReservedOpidIsRefused : Prop :=
  ∀ (s : State) (rest : List Input), Instr.reservedOpidF.opid = some 0xF ∧
    exec .reservedOpidF s = .refused .reservedOpid ∧
    step { s with inputs := .op [0x0F] :: rest } = .refused .reservedOpid

/-- A response frame is parsed by `VALIDATE` with its three bytes (R59, R62): the model's reading of the row, log entry 18. The
verdict with nothing pending is log entry 24, the numbers 0x00 and 0x03 are log entry 23. -/
def Obligations.RspFrameIsParsed : Prop :=
  ∀ (s : State) (fc : Byte) (written : Half), s.cfg.pduSizeMin = 1 →
    exec (.rspFrame fc written) s = .next { s with
      out := .verdict (if s.pendValid = true ∧ written = s.pendCount then 0x00 else 0x03) }

/-- A request frame is held against the resident bytes and changes nothing; just after a `BUILD` the built request is
resident (R58, R62): the model's reading of the row, log entry 19. -/
def Obligations.ReqFrameIsCheckedAgainstTheBuffer : Prop :=
  ∀ (s : State) (fc : Byte) (baddr : Word) (count : Half) (data : List Byte),
    (∃ same, exec (.reqFrame fc baddr count data) s = .next { s with out := .resident same } ∧
      (same = true ↔ 7 + data.length ≤ s.cfg.txbufSize ∧
        ∀ k, k < 7 + data.length → (reqBytes fc baddr count data)[k]? = some (s.txByte k))) ∧
    ∀ (i : Nat) (c : Ctx) (t : State), s.ctxs[i]? = some c → c.phase = .serializing → exec (.build i) s = .next t →
      exec (.reqFrame s.cfg.fcWriteBlock c.arg.baddr c.arg.dsize (callData s c.arg)) t =
        .next { t with out := .resident true }

/-! ### Steps -/

/-- A step runs the operation or frame presented first, on the state without that input. That what is presented stands in a
list, oldest first, of which a step takes the first, is the model's choice, log entry 3. -/
def Obligations.StepRunsPresentedInstruction : Prop :=
  ∀ (s : State) (f : Format) (bytes : List Byte) (rest : List Input) (i : Instr),
    s.inputs = inputOf f bytes :: rest → decodeAll f bytes = .ok i → i.legal s.cfg = true →
    step s = exec i { s with inputs := rest }

/-- Bytes that are no operation and no frame, and operands outside their ranges, are refused by name (log entry 27). -/
def Obligations.StepRefusesMalformedInput : Prop :=
  ∀ (s : State) (f : Format) (bytes : List Byte) (rest : List Input), s.inputs = inputOf f bytes :: rest →
    (∀ e, decodeAll f bytes = .error e → step s = .refused (.undecodable e)) ∧
    (∀ i, decodeAll f bytes = .ok i → i.legal s.cfg = false → step s = .refused .illFormed)

/-- Every legal operation or frame, in every configuration, can be presented: what `withFetchWord` or the environment puts
first in its own encoding (log entries 4 and 16) is what the step runs. -/
def Obligations.EncodedInstructionIsRun : Prop :=
  ∀ (s : State) (i : Instr) (rest : List Input), i.legal s.cfg = true →
    step { s with inputs := inputOf i.format (encode i) :: rest } = exec i { s with inputs := rest }

/-- With nothing presented, the engine of the first composite call makes the operation its `STATE` enables, and a machine
without such a call waits (log entry 6). -/
def Obligations.EngineMovesWhenNothingIsPresented : Prop :=
  ∀ s : State, s.inputs = [] →
    (s.calls = [] → step s = .next s) ∧
    (∀ (i : Nat) (rest : List Nat) (c : Ctx) (op : Instr), s.calls = i :: rest → s.ctxs[i]? = some c → engineOp i c.phase = some op →
      step s = exec op { s with calls := rest ++ [i] })

/-- R115 and R116: the reset input puts every register at its value of R35, discards a request in flight without a result
and frees the slot; the parameters, the caller's memory and the other agents' inputs are not reset (log entry 15). -/
def Obligations.ResetInputResets : Prop :=
  ∀ (s : State) (rest : List Input), s.inputs = .reset :: rest →
    ∃ t, step s = .next t ∧ t.lockOwner = .none ∧ t.lockReported = false ∧ t.txlen = 0 ∧ t.dest = 0 ∧
      t.pendValid = false ∧ t.pendCount = 0 ∧ t.fault = .none ∧ t.evlog = [] ∧
      t.ctxs.length = s.cfg.nctx ∧
      (∀ c ∈ t.ctxs, c.phase = .idle ∧ c.outcome = .empty ∧ c.result = .noError ∧ c.resultValid = false) ∧
      (∀ off, t.txByte off = Config.txbufByte (s.epoch + 1) off) ∧
      t.cfg = s.cfg ∧ t.cdata = s.cdata ∧ t.inputs = rest ∧ t.calls = []

/-- A caller's write changes that one byte of `CDATA` and nothing else; bytes of a call between `ISSUE` and `BUILD` are
not written, which R118 (d) assumes of the environment (log entry 20). -/
def Obligations.CallerWriteChangesOneByte : Prop :=
  ∀ (s : State) (a : Nat) (b : Byte) (rest : List Input), s.inputs = .cdata a b :: rest → a < 2 ^ s.cfg.ptrW →
    ((∃ c ∈ s.ctxs, (c.phase = .acquiring ∨ c.phase = .serializing) ∧
        c.arg.dptr ≤ a ∧ a < c.arg.dptr + c.arg.dsize.toNat) → step s = .refused .callerDataHeld) ∧
    ((∀ c ∈ s.ctxs, (c.phase = .acquiring ∨ c.phase = .serializing) →
        ¬ (c.arg.dptr ≤ a ∧ a < c.arg.dptr + c.arg.dsize.toNat)) →
      ∃ t, step s = .next t ∧ t = { s with inputs := rest, cdata := t.cdata } ∧
        t.cdataByte a = b ∧ ∀ x, x ≠ a → t.cdataByte x = s.cdataByte x)

/-! ### Reset and invariants -/

/-- R35: the reset values, in every configuration; the bytes of `TXBUF` are free. -/
def Obligations.ResetValues : Prop :=
  ∀ cfg : Config,
    let s := State.resetWith cfg
    s.lockOwner = .none ∧ s.lockReported = false ∧ s.txlen = 0 ∧ s.dest = 0 ∧ s.pendValid = false ∧
    s.pendCount = 0 ∧ s.fault = .none ∧ s.evlog = [] ∧
    (∀ i, i < cfg.nctx → ∃ c : Ctx, s.ctxs[i]? = some c ∧ c.phase = .idle ∧ c.outcome = .empty ∧ c.result = .noError ∧
      c.resultValid = false) ∧
    (∀ off, s.txByte off = Config.txbufByte 0 off)

/-- The invariants of R34 but I-2 (which is about changes: `SingleWriterOfTransmitState`) hold in the reset state of every legal
configuration. -/
def Obligations.ResetMeetsInv : Prop :=
  (∀ cfg : Config, cfg.Legal → Invariant (State.resetWith cfg)) ∧ Invariant State.reset

/-- The invariants of R34 but I-2 (which is about changes: `SingleWriterOfTransmitState`) are kept by every step, from every state
that meets them. -/
def Obligations.StepKeepsInv : Prop :=
  ∀ s t : State, Invariant s → step s = .next t → Invariant t

/-- Under the invariants every legal operation but the reserved identifier completes, a response with the two bytes that are
read (R90): nothing that a run presents in its range ends the run. That one which is not enabled, or is blocked, answers a next
state is the model's choice, log entries 7 and 8. -/
def Obligations.LegalOperationsComplete : Prop :=
  ∀ (s : State) (i : Instr), Invariant s → i.legal s.cfg = true → i ≠ .reservedOpidF →
    (∀ rsp, (i = .validate rsp 3 ∨ i = .reportRsp rsp 3) → s.pendValid = true → 3 ≤ rsp.length) → ∃ t, exec i s = .next t

/-- R98 P5, I-1: at most one context is in flight, and none while another function holds the slot. -/
def Obligations.AtMostOneInFlight : Prop :=
  ∀ (s : State) (i j : Nat) (c d : Ctx), Invariant s → s.ctxs[i]? = some c → s.ctxs[j]? = some d →
    InFlight c → InFlight d → i = j ∧ s.lockOwner ≠ .ext ∧ s.lockOwner ≠ .none

/-- R119, I-3: while a request is pending, the retained count and the count read back from bytes 5 and 6 of the buffer
(the source's mechanism) give the validator the same verdict. -/
def Obligations.RetainedCountEqualsBufferCount : Prop :=
  ∀ (s : State) (rsp : List Byte) (len : Half), Invariant s → s.pendValid = true →
    validateRsp s.cfg true (ube16 (s.txByte 5) (s.txByte 6)) rsp len =
      validateRsp s.cfg s.pendValid s.pendCount rsp len

/-- The definition of `ACC(i)` in 43_completion_wait.md: at most one context satisfies it, its outcome is empty and a
request is pending. -/
def Obligations.AcceptanceIsUnambiguous : Prop :=
  ∀ (s : State) (i j : Nat) (c : Ctx), Invariant s → Accepts s i → Accepts s j → s.ctxs[i]? = some c →
    i = j ∧ c.outcome = .empty ∧ s.pendValid = true

/-! ### Rules of the whole machine -/

/-- R54 and I-2: the shared transmit state changes only in a `BUILD` by a context that is `SERIALIZING` and owns the lock or in an `XWRITE`
while the owner is `EXT`. -/
def Obligations.SingleWriterOfTransmitState : Prop :=
  ∀ (s t : State) (i : Instr), Invariant s → exec i s = .next t → ¬ SameTx s t →
    (∃ (k : Nat) (c : Ctx), i = .build k ∧ s.ctxs[k]? = some c ∧ c.phase = .serializing ∧ s.lockOwner = .ctx k) ∨ (∃ x, i = .xwrite x ∧ s.lockOwner = .ext)

/-- R95: the transition table of `STATE[k]`, row by row; no other operation changes any `STATE[k]`. -/
def Obligations.TransitionTable : Prop :=
  ∀ (s t : State) (i : Instr) (k : Nat) (c d : Ctx), exec i s = .next t → s.ctxs[k]? = some c → t.ctxs[k]? = some d →
    c.phase ≠ d.phase →
    (∃ slave baddr dptr dsize tmo, (i = .issue k slave baddr dptr dsize tmo ∨ i = .wbreq k slave baddr dptr dsize tmo) ∧
      c.phase = .idle ∧ argchk s.cfg slave = true ∧
      ((capchk s.cfg dptr dsize ≠ .ok ∧ d.phase = .faulted) ∨ (capchk s.cfg dptr dsize = .ok ∧ d.phase = .acquiring))) ∨
    (i = .acquire k ∧ c.phase = .acquiring ∧ s.lockOwner = .none ∧ d.phase = .serializing) ∨
    (i = .acquire k ∧ c.phase = .acquiring ∧ s.lockOwner ≠ .none ∧ c.arg.tmo ≠ s.cfg.infiniteWait ∧ d.phase = .idle ∧
      d.result = .masterBusy ∧ d.resultValid = true) ∨
    (i = .build k ∧ c.phase = .serializing ∧ d.phase = .locked) ∨
    (i = .post k ∧ c.phase = .locked ∧ d.phase = .sent) ∨
    (i = .wait k ∧ c.phase = .sent ∧ d.phase = .awaiting) ∨
    (i = .wake k ∧ c.phase = .awaiting ∧ c.outcome ≠ .empty ∧ d.phase = .idle ∧ d.resultValid = true ∧
      translateOutcome c.outcome = some d.result)

/-- R96: the private registers of context `k` change only in operations that name `k`, or, `OUTCOME[k]` alone, in a report
while `LOCK.OWNER = CTX(k)`. -/
def Obligations.PrivateRegistersStayPrivate : Prop :=
  ∀ (s t : State) (i : Instr) (k : Nat) (c : Ctx), exec i s = .next t → s.ctxs[k]? = some c →
    ∃ d, t.ctxs[k]? = some d ∧
      (d = c ∨
        (∃ slave baddr dptr dsize tmo, i = .issue k slave baddr dptr dsize tmo ∨ i = .wbreq k slave baddr dptr dsize tmo) ∨
        i = .acquire k ∨ i = .build k ∨ i = .post k ∨ i = .wait k ∨ i = .wake k ∨
        ((∃ rsp len, i = .reportRsp rsp len) ∨ (∃ code, i = .reportExc code) ∨ i = .reportTmo) ∧
          s.lockOwner = .ctx k ∧ d = { c with outcome := d.outcome })

/-- R26, R102: `FAULT` is set only by a call entry that breaks a precondition, a fault once recorded is kept by every step
but reset, and a context in `FAULTED` is left as it is by every step but reset. -/
def Obligations.FaultIsSticky : Prop :=
  (∀ (s t : State) (i : Instr), exec i s = .next t → t.fault ≠ s.fault →
    s.fault = .none ∧ ∃ k slave baddr dptr dsize tmo,
      (i = .issue k slave baddr dptr dsize tmo ∨ i = .wbreq k slave baddr dptr dsize tmo) ∧
      ((capchk s.cfg dptr dsize = .capacity ∧ t.fault = .capacity k) ∨
        (capchk s.cfg dptr dsize = .pointer ∧ t.fault = .pointer k))) ∧
  (∀ s t : State, step s = .next t → s.inputs.head? ≠ some .reset →
    (s.fault ≠ .none → t.fault = s.fault) ∧
    (∀ (k : Nat) (c : Ctx), s.ctxs[k]? = some c → c.phase = .faulted → t.ctxs[k]? = some c))

/-- R117 (1), R118 (e): no step changes a parameter. -/
def Obligations.ParametersAreFixed : Prop :=
  ∀ s t : State, step s = .next t → t.cfg = s.cfg

/-- R31: `EVLOG` grows by one entry at a time, by `POST` or by a discarded report of that kind, and by nothing else. -/
def Obligations.EventLogOnlyGrows : Prop :=
  ∀ (s t : State) (i : Instr), exec i s = .next t →
    t.evlog = s.evlog ∨
    (∃ k, i = .post k ∧ t.evlog = s.evlog ++ [.txEvent k]) ∨
    (∃ rsp len, i = .reportRsp rsp len ∧ t.evlog = s.evlog ++ [.discarded .rsp]) ∨
    (∃ code, i = .reportExc code ∧ t.evlog = s.evlog ++ [.discarded .exc]) ∨
    (i = .reportTmo ∧ t.evlog = s.evlog ++ [.discarded .tmo])

/-- The rights of the agents (R36, R111), as what the operations of each agent leave alone. That the engine's leave `FAULT`
rests on R102 (only `ISSUE` raises it), `PEND.COUNT` on R25 and `EVLOG` on R31; the agent of each operation is the model's
`initiator`, which for the two frames is its own reading, log entry 25. -/
def Obligations.AgentsKeepToTheirRights : Prop :=
  ∀ (s t : State) (i : Instr), Invariant s → exec i s = .next t →
    t.cfg = s.cfg ∧ t.cdata = s.cdata ∧ t.inputs = s.inputs ∧ t.epoch = s.epoch ∧
    (initiator i = some .caller → SameLock s t ∧ SameTx s t ∧ SamePend s t ∧ t.evlog = s.evlog) ∧
    (initiator i = some .engine → t.fault = s.fault ∧ (t.lockOwner = s.lockOwner ∨ s.lockOwner = .none)) ∧
    (initiator i = some .dispatcher → t.lockOwner = s.lockOwner ∧ SameTx s t ∧ t.pendCount = s.pendCount ∧
      t.fault = s.fault ∧ t.calls = s.calls) ∧
    (initiator i = some .completionPath → SameTx s t ∧ SamePend s t ∧ t.ctxs = s.ctxs ∧ t.fault = s.fault ∧
      t.evlog = s.evlog) ∧
    (initiator i = some .otherRequester → t.lockReported = s.lockReported ∧ SamePend s t ∧ t.ctxs = s.ctxs ∧
      t.fault = s.fault ∧ t.evlog = s.evlog)

/-- R99, R108: which operation returns which code, and what an error return leaves alone: the lock, the shared transmit
state, the pending context and the event log, whatever the code. -/
def Obligations.ErrorReturnsArePrecise : Prop :=
  ∀ (s t : State) (i : Instr) (code : ErrorCode), exec i s = .next t → t.out = .returned code →
    ((∃ k slave baddr dptr dsize tmo, code = .illegalArgument ∧
        (i = .issue k slave baddr dptr dsize tmo ∨ i = .wbreq k slave baddr dptr dsize tmo)) ∨
      (∃ k, code = .masterBusy ∧ i = .acquire k) ∨
      (∃ k, (code = .noError ∨ code = .timeout ∨ code = .protocolException) ∧ i = .wake k)) ∧
    SameLock s t ∧ SameTx s t ∧ SamePend s t ∧ t.evlog = s.evlog ∧ t.fault = s.fault

/-- R70: an operation that is refused or blocked changes no register: only the model's own result and counter of free
choices move (log entries 7, 8, 9). -/
def Obligations.RefusedOrBlockedChangesNothing : Prop :=
  ∀ (s t : State) (i : Instr), exec i s = .next t → (t.out = .refused ∨ t.out = .blocked) →
    t = { s with out := t.out, draws := t.draws }

/-- R97: the engine operation of a blocked context changes no register, in either of the two places; a context in progress that
is not blocked moves on, unless it waits for a held slot with a finite timeout; a machine at rest with nothing presented stays
as it is, and whatever is presented to one at rest but an `XACQUIRE` leaves it at rest (what is a pending call: log entry 29). The model's choices in it: "no step" is a next state with the result "blocked" (log entry 8), the
counter `draws` moves (log entry 9), and a step with nothing presented and no composite call changes nothing (log entries 6
and 16). -/
def Obligations.BlockedAndAtRest : Prop :=
  (∀ (s : State) (i : Nat) (c : Ctx) (op : Instr), Invariant s → s.ctxs[i]? = some c → engineOp i c.phase = some op →
    (Blocked s c → exec op s = .next { s with out := .blocked }) ∧
    (¬ Blocked s c → ∃ t d, exec op s = .next t ∧ t.ctxs[i]? = some d ∧
      (d.phase ≠ c.phase ∨ (c.phase = .acquiring ∧ s.lockOwner ≠ .none ∧ t = { s with out := .blocked, draws := t.draws })))) ∧
  (∀ s : State, AtRest s → s.inputs = [] → step s = .next s) ∧
  (∀ s t : State, AtRest s → step s = .next t → AtRest t ∨
    ∃ bytes rest, s.inputs = .op bytes :: rest ∧ decodeAll .op bytes = .ok .xacquire)

/-! ### Added after the review -/

/-- R67, R70: the identifier of an operation is bits 3..0 of byte 0 of its encoding, and of any operation record that decodes
to it. The
composite has no identifier of its own, and stands under the nibble of `ISSUE`, as the opcode table has it. -/
def Obligations.IdentifierIsTheLowNibble : Prop :=
  (∀ (i : Instr) (op : BitVec 4), i.opid = some op ∨ (op = 0x0 ∧ ∃ k slave baddr dptr dsize tmo, i = .wbreq k slave baddr dptr dsize tmo) →
    (∃ b rest, encode i = b :: rest ∧ b.extractLsb' 0 4 = op) ∧
    ∀ bytes, decodeAll .op bytes = .ok i → ∃ b rest, bytes = b :: rest ∧ b.extractLsb' 0 4 = op) ∧
  (∀ k slave baddr dptr dsize tmo, (Instr.wbreq k slave baddr dptr dsize tmo).opid = none) ∧
  (∀ fc baddr count data, (Instr.reqFrame fc baddr count data).opid = none) ∧ ∀ fc written, (Instr.rspFrame fc written).opid = none

/-- With `LEN` 3 and a request pending, a response presented without its bytes 1 and 2 has no verdict: R90 reads bytes
that were not presented (R32), and the model stops by name (log entries 17 and 30). -/
def Obligations.ResponseWithoutItsBytesFaults : Prop :=
  ∀ (s : State) (rsp : List Byte), s.cfg.pduSizeMin = 1 → s.pendValid = true → rsp.length < 3 →
    exec (.validate rsp 3) s = .fault .rspByteAbsent ∧ exec (.reportRsp rsp 3) s = .fault .rspByteAbsent
end

