-- ==== Sys2Proof/Laws/State.lean ====
section
/-! SUPPORT. One lemma per field per register write, so that no proof unfolds a record update. -/

namespace Sys2Proof.Machine

@[simp] theorem State.setCtx_cfg (s : State) (i : Nat) (c : Ctx) : (s.setCtx i c).cfg = s.cfg := rfl
@[simp] theorem State.setCtx_lockOwner (s : State) (i : Nat) (c : Ctx) : (s.setCtx i c).lockOwner = s.lockOwner := rfl
@[simp] theorem State.setCtx_lockReported (s : State) (i : Nat) (c : Ctx) : (s.setCtx i c).lockReported = s.lockReported := rfl
@[simp] theorem State.setCtx_txbuf (s : State) (i : Nat) (c : Ctx) : (s.setCtx i c).txbuf = s.txbuf := rfl
@[simp] theorem State.setCtx_txlen (s : State) (i : Nat) (c : Ctx) : (s.setCtx i c).txlen = s.txlen := rfl
@[simp] theorem State.setCtx_dest (s : State) (i : Nat) (c : Ctx) : (s.setCtx i c).dest = s.dest := rfl
@[simp] theorem State.setCtx_pendValid (s : State) (i : Nat) (c : Ctx) : (s.setCtx i c).pendValid = s.pendValid := rfl
@[simp] theorem State.setCtx_pendCount (s : State) (i : Nat) (c : Ctx) : (s.setCtx i c).pendCount = s.pendCount := rfl
@[simp] theorem State.setCtx_fault (s : State) (i : Nat) (c : Ctx) : (s.setCtx i c).fault = s.fault := rfl
@[simp] theorem State.setCtx_ctxs (s : State) (i : Nat) (c : Ctx) : (s.setCtx i c).ctxs = s.ctxs.set i c := rfl
@[simp] theorem State.setCtx_evlog (s : State) (i : Nat) (c : Ctx) : (s.setCtx i c).evlog = s.evlog := rfl
@[simp] theorem State.setCtx_cdata (s : State) (i : Nat) (c : Ctx) : (s.setCtx i c).cdata = s.cdata := rfl
@[simp] theorem State.setCtx_out (s : State) (i : Nat) (c : Ctx) : (s.setCtx i c).out = s.out := rfl
@[simp] theorem State.setCtx_calls (s : State) (i : Nat) (c : Ctx) : (s.setCtx i c).calls = s.calls := rfl
@[simp] theorem State.setCtx_inputs (s : State) (i : Nat) (c : Ctx) : (s.setCtx i c).inputs = s.inputs := rfl
@[simp] theorem State.setCtx_draws (s : State) (i : Nat) (c : Ctx) : (s.setCtx i c).draws = s.draws := rfl
@[simp] theorem State.setCtx_epoch (s : State) (i : Nat) (c : Ctx) : (s.setCtx i c).epoch = s.epoch := rfl
@[simp] theorem State.setCtx_txByte (s : State) (i : Nat) (c : Ctx) (k : Nat) : (s.setCtx i c).txByte k = s.txByte k := rfl
@[simp] theorem State.setCtx_cdataByte (s : State) (i : Nat) (c : Ctx) (k : Nat) : (s.setCtx i c).cdataByte k = s.cdataByte k := rfl

@[simp] theorem State.setLock_cfg (s : State) (o : Owner) (b : Bool) : (s.setLock o b).cfg = s.cfg := rfl
@[simp] theorem State.setLock_lockOwner (s : State) (o : Owner) (b : Bool) : (s.setLock o b).lockOwner = o := rfl
@[simp] theorem State.setLock_lockReported (s : State) (o : Owner) (b : Bool) : (s.setLock o b).lockReported = b := rfl
@[simp] theorem State.setLock_txbuf (s : State) (o : Owner) (b : Bool) : (s.setLock o b).txbuf = s.txbuf := rfl
@[simp] theorem State.setLock_txlen (s : State) (o : Owner) (b : Bool) : (s.setLock o b).txlen = s.txlen := rfl
@[simp] theorem State.setLock_dest (s : State) (o : Owner) (b : Bool) : (s.setLock o b).dest = s.dest := rfl
@[simp] theorem State.setLock_pendValid (s : State) (o : Owner) (b : Bool) : (s.setLock o b).pendValid = s.pendValid := rfl
@[simp] theorem State.setLock_pendCount (s : State) (o : Owner) (b : Bool) : (s.setLock o b).pendCount = s.pendCount := rfl
@[simp] theorem State.setLock_fault (s : State) (o : Owner) (b : Bool) : (s.setLock o b).fault = s.fault := rfl
@[simp] theorem State.setLock_ctxs (s : State) (o : Owner) (b : Bool) : (s.setLock o b).ctxs = s.ctxs := rfl
@[simp] theorem State.setLock_evlog (s : State) (o : Owner) (b : Bool) : (s.setLock o b).evlog = s.evlog := rfl
@[simp] theorem State.setLock_cdata (s : State) (o : Owner) (b : Bool) : (s.setLock o b).cdata = s.cdata := rfl
@[simp] theorem State.setLock_out (s : State) (o : Owner) (b : Bool) : (s.setLock o b).out = s.out := rfl
@[simp] theorem State.setLock_calls (s : State) (o : Owner) (b : Bool) : (s.setLock o b).calls = s.calls := rfl
@[simp] theorem State.setLock_inputs (s : State) (o : Owner) (b : Bool) : (s.setLock o b).inputs = s.inputs := rfl
@[simp] theorem State.setLock_draws (s : State) (o : Owner) (b : Bool) : (s.setLock o b).draws = s.draws := rfl
@[simp] theorem State.setLock_epoch (s : State) (o : Owner) (b : Bool) : (s.setLock o b).epoch = s.epoch := rfl
@[simp] theorem State.setLock_txByte (s : State) (o : Owner) (b : Bool) (k : Nat) : (s.setLock o b).txByte k = s.txByte k := rfl
@[simp] theorem State.setLock_cdataByte (s : State) (o : Owner) (b : Bool) (k : Nat) : (s.setLock o b).cdataByte k = s.cdataByte k := rfl

@[simp] theorem State.setPend_cfg (s : State) (v : Bool) (n : Half) : (s.setPend v n).cfg = s.cfg := rfl
@[simp] theorem State.setPend_lockOwner (s : State) (v : Bool) (n : Half) : (s.setPend v n).lockOwner = s.lockOwner := rfl
@[simp] theorem State.setPend_lockReported (s : State) (v : Bool) (n : Half) : (s.setPend v n).lockReported = s.lockReported := rfl
@[simp] theorem State.setPend_txbuf (s : State) (v : Bool) (n : Half) : (s.setPend v n).txbuf = s.txbuf := rfl
@[simp] theorem State.setPend_txlen (s : State) (v : Bool) (n : Half) : (s.setPend v n).txlen = s.txlen := rfl
@[simp] theorem State.setPend_dest (s : State) (v : Bool) (n : Half) : (s.setPend v n).dest = s.dest := rfl
@[simp] theorem State.setPend_pendValid (s : State) (v : Bool) (n : Half) : (s.setPend v n).pendValid = v := rfl
@[simp] theorem State.setPend_pendCount (s : State) (v : Bool) (n : Half) : (s.setPend v n).pendCount = n := rfl
@[simp] theorem State.setPend_fault (s : State) (v : Bool) (n : Half) : (s.setPend v n).fault = s.fault := rfl
@[simp] theorem State.setPend_ctxs (s : State) (v : Bool) (n : Half) : (s.setPend v n).ctxs = s.ctxs := rfl
@[simp] theorem State.setPend_evlog (s : State) (v : Bool) (n : Half) : (s.setPend v n).evlog = s.evlog := rfl
@[simp] theorem State.setPend_cdata (s : State) (v : Bool) (n : Half) : (s.setPend v n).cdata = s.cdata := rfl
@[simp] theorem State.setPend_out (s : State) (v : Bool) (n : Half) : (s.setPend v n).out = s.out := rfl
@[simp] theorem State.setPend_calls (s : State) (v : Bool) (n : Half) : (s.setPend v n).calls = s.calls := rfl
@[simp] theorem State.setPend_inputs (s : State) (v : Bool) (n : Half) : (s.setPend v n).inputs = s.inputs := rfl
@[simp] theorem State.setPend_draws (s : State) (v : Bool) (n : Half) : (s.setPend v n).draws = s.draws := rfl
@[simp] theorem State.setPend_epoch (s : State) (v : Bool) (n : Half) : (s.setPend v n).epoch = s.epoch := rfl
@[simp] theorem State.setPend_txByte (s : State) (v : Bool) (n : Half) (k : Nat) : (s.setPend v n).txByte k = s.txByte k := rfl
@[simp] theorem State.setPend_cdataByte (s : State) (v : Bool) (n : Half) (k : Nat) : (s.setPend v n).cdataByte k = s.cdataByte k := rfl

@[simp] theorem State.setTx_cfg (s : State) (m : Memory) (n : Half) (d : Byte) : (s.setTx m n d).cfg = s.cfg := rfl
@[simp] theorem State.setTx_lockOwner (s : State) (m : Memory) (n : Half) (d : Byte) : (s.setTx m n d).lockOwner = s.lockOwner := rfl
@[simp] theorem State.setTx_lockReported (s : State) (m : Memory) (n : Half) (d : Byte) : (s.setTx m n d).lockReported = s.lockReported := rfl
@[simp] theorem State.setTx_txbuf (s : State) (m : Memory) (n : Half) (d : Byte) : (s.setTx m n d).txbuf = m := rfl
@[simp] theorem State.setTx_txlen (s : State) (m : Memory) (n : Half) (d : Byte) : (s.setTx m n d).txlen = n := rfl
@[simp] theorem State.setTx_dest (s : State) (m : Memory) (n : Half) (d : Byte) : (s.setTx m n d).dest = d := rfl
@[simp] theorem State.setTx_pendValid (s : State) (m : Memory) (n : Half) (d : Byte) : (s.setTx m n d).pendValid = s.pendValid := rfl
@[simp] theorem State.setTx_pendCount (s : State) (m : Memory) (n : Half) (d : Byte) : (s.setTx m n d).pendCount = s.pendCount := rfl
@[simp] theorem State.setTx_fault (s : State) (m : Memory) (n : Half) (d : Byte) : (s.setTx m n d).fault = s.fault := rfl
@[simp] theorem State.setTx_ctxs (s : State) (m : Memory) (n : Half) (d : Byte) : (s.setTx m n d).ctxs = s.ctxs := rfl
@[simp] theorem State.setTx_evlog (s : State) (m : Memory) (n : Half) (d : Byte) : (s.setTx m n d).evlog = s.evlog := rfl
@[simp] theorem State.setTx_cdata (s : State) (m : Memory) (n : Half) (d : Byte) : (s.setTx m n d).cdata = s.cdata := rfl
@[simp] theorem State.setTx_out (s : State) (m : Memory) (n : Half) (d : Byte) : (s.setTx m n d).out = s.out := rfl
@[simp] theorem State.setTx_calls (s : State) (m : Memory) (n : Half) (d : Byte) : (s.setTx m n d).calls = s.calls := rfl
@[simp] theorem State.setTx_inputs (s : State) (m : Memory) (n : Half) (d : Byte) : (s.setTx m n d).inputs = s.inputs := rfl
@[simp] theorem State.setTx_draws (s : State) (m : Memory) (n : Half) (d : Byte) : (s.setTx m n d).draws = s.draws := rfl
@[simp] theorem State.setTx_epoch (s : State) (m : Memory) (n : Half) (d : Byte) : (s.setTx m n d).epoch = s.epoch := rfl
@[simp] theorem State.setTx_cdataByte (s : State) (m : Memory) (n : Half) (d : Byte) (k : Nat) : (s.setTx m n d).cdataByte k = s.cdataByte k := rfl

@[simp] theorem State.setFault_cfg (s : State) (f : FaultReg) : (s.setFault f).cfg = s.cfg := rfl
@[simp] theorem State.setFault_lockOwner (s : State) (f : FaultReg) : (s.setFault f).lockOwner = s.lockOwner := rfl
@[simp] theorem State.setFault_lockReported (s : State) (f : FaultReg) : (s.setFault f).lockReported = s.lockReported := rfl
@[simp] theorem State.setFault_txbuf (s : State) (f : FaultReg) : (s.setFault f).txbuf = s.txbuf := rfl
@[simp] theorem State.setFault_txlen (s : State) (f : FaultReg) : (s.setFault f).txlen = s.txlen := rfl
@[simp] theorem State.setFault_dest (s : State) (f : FaultReg) : (s.setFault f).dest = s.dest := rfl
@[simp] theorem State.setFault_pendValid (s : State) (f : FaultReg) : (s.setFault f).pendValid = s.pendValid := rfl
@[simp] theorem State.setFault_pendCount (s : State) (f : FaultReg) : (s.setFault f).pendCount = s.pendCount := rfl
@[simp] theorem State.setFault_fault (s : State) (f : FaultReg) : (s.setFault f).fault = if s.fault = .none then f else s.fault := rfl
@[simp] theorem State.setFault_ctxs (s : State) (f : FaultReg) : (s.setFault f).ctxs = s.ctxs := rfl
@[simp] theorem State.setFault_evlog (s : State) (f : FaultReg) : (s.setFault f).evlog = s.evlog := rfl
@[simp] theorem State.setFault_cdata (s : State) (f : FaultReg) : (s.setFault f).cdata = s.cdata := rfl
@[simp] theorem State.setFault_out (s : State) (f : FaultReg) : (s.setFault f).out = s.out := rfl
@[simp] theorem State.setFault_calls (s : State) (f : FaultReg) : (s.setFault f).calls = s.calls := rfl
@[simp] theorem State.setFault_inputs (s : State) (f : FaultReg) : (s.setFault f).inputs = s.inputs := rfl
@[simp] theorem State.setFault_draws (s : State) (f : FaultReg) : (s.setFault f).draws = s.draws := rfl
@[simp] theorem State.setFault_epoch (s : State) (f : FaultReg) : (s.setFault f).epoch = s.epoch := rfl
@[simp] theorem State.setFault_txByte (s : State) (f : FaultReg) (k : Nat) : (s.setFault f).txByte k = s.txByte k := rfl
@[simp] theorem State.setFault_cdataByte (s : State) (f : FaultReg) (k : Nat) : (s.setFault f).cdataByte k = s.cdataByte k := rfl

@[simp] theorem State.emit_cfg (s : State) (e : Event) : (s.emit e).cfg = s.cfg := rfl
@[simp] theorem State.emit_lockOwner (s : State) (e : Event) : (s.emit e).lockOwner = s.lockOwner := rfl
@[simp] theorem State.emit_lockReported (s : State) (e : Event) : (s.emit e).lockReported = s.lockReported := rfl
@[simp] theorem State.emit_txbuf (s : State) (e : Event) : (s.emit e).txbuf = s.txbuf := rfl
@[simp] theorem State.emit_txlen (s : State) (e : Event) : (s.emit e).txlen = s.txlen := rfl
@[simp] theorem State.emit_dest (s : State) (e : Event) : (s.emit e).dest = s.dest := rfl
@[simp] theorem State.emit_pendValid (s : State) (e : Event) : (s.emit e).pendValid = s.pendValid := rfl
@[simp] theorem State.emit_pendCount (s : State) (e : Event) : (s.emit e).pendCount = s.pendCount := rfl
@[simp] theorem State.emit_fault (s : State) (e : Event) : (s.emit e).fault = s.fault := rfl
@[simp] theorem State.emit_ctxs (s : State) (e : Event) : (s.emit e).ctxs = s.ctxs := rfl
@[simp] theorem State.emit_evlog (s : State) (e : Event) : (s.emit e).evlog = s.evlog ++ [e] := rfl
@[simp] theorem State.emit_cdata (s : State) (e : Event) : (s.emit e).cdata = s.cdata := rfl
@[simp] theorem State.emit_out (s : State) (e : Event) : (s.emit e).out = s.out := rfl
@[simp] theorem State.emit_calls (s : State) (e : Event) : (s.emit e).calls = s.calls := rfl
@[simp] theorem State.emit_inputs (s : State) (e : Event) : (s.emit e).inputs = s.inputs := rfl
@[simp] theorem State.emit_draws (s : State) (e : Event) : (s.emit e).draws = s.draws := rfl
@[simp] theorem State.emit_epoch (s : State) (e : Event) : (s.emit e).epoch = s.epoch := rfl
@[simp] theorem State.emit_txByte (s : State) (e : Event) (k : Nat) : (s.emit e).txByte k = s.txByte k := rfl
@[simp] theorem State.emit_cdataByte (s : State) (e : Event) (k : Nat) : (s.emit e).cdataByte k = s.cdataByte k := rfl

@[simp] theorem State.respond_cfg (s : State) (r : Response) : (s.respond r).cfg = s.cfg := rfl
@[simp] theorem State.respond_lockOwner (s : State) (r : Response) : (s.respond r).lockOwner = s.lockOwner := rfl
@[simp] theorem State.respond_lockReported (s : State) (r : Response) : (s.respond r).lockReported = s.lockReported := rfl
@[simp] theorem State.respond_txbuf (s : State) (r : Response) : (s.respond r).txbuf = s.txbuf := rfl
@[simp] theorem State.respond_txlen (s : State) (r : Response) : (s.respond r).txlen = s.txlen := rfl
@[simp] theorem State.respond_dest (s : State) (r : Response) : (s.respond r).dest = s.dest := rfl
@[simp] theorem State.respond_pendValid (s : State) (r : Response) : (s.respond r).pendValid = s.pendValid := rfl
@[simp] theorem State.respond_pendCount (s : State) (r : Response) : (s.respond r).pendCount = s.pendCount := rfl
@[simp] theorem State.respond_fault (s : State) (r : Response) : (s.respond r).fault = s.fault := rfl
@[simp] theorem State.respond_ctxs (s : State) (r : Response) : (s.respond r).ctxs = s.ctxs := rfl
@[simp] theorem State.respond_evlog (s : State) (r : Response) : (s.respond r).evlog = s.evlog := rfl
@[simp] theorem State.respond_cdata (s : State) (r : Response) : (s.respond r).cdata = s.cdata := rfl
@[simp] theorem State.respond_out (s : State) (r : Response) : (s.respond r).out = r := rfl
@[simp] theorem State.respond_calls (s : State) (r : Response) : (s.respond r).calls = s.calls := rfl
@[simp] theorem State.respond_inputs (s : State) (r : Response) : (s.respond r).inputs = s.inputs := rfl
@[simp] theorem State.respond_draws (s : State) (r : Response) : (s.respond r).draws = s.draws := rfl
@[simp] theorem State.respond_epoch (s : State) (r : Response) : (s.respond r).epoch = s.epoch := rfl
@[simp] theorem State.respond_txByte (s : State) (r : Response) (k : Nat) : (s.respond r).txByte k = s.txByte k := rfl
@[simp] theorem State.respond_cdataByte (s : State) (r : Response) (k : Nat) : (s.respond r).cdataByte k = s.cdataByte k := rfl

@[simp] theorem State.addCall_cfg (s : State) (i : Nat) : (s.addCall i).cfg = s.cfg := rfl
@[simp] theorem State.addCall_lockOwner (s : State) (i : Nat) : (s.addCall i).lockOwner = s.lockOwner := rfl
@[simp] theorem State.addCall_lockReported (s : State) (i : Nat) : (s.addCall i).lockReported = s.lockReported := rfl
@[simp] theorem State.addCall_txbuf (s : State) (i : Nat) : (s.addCall i).txbuf = s.txbuf := rfl
@[simp] theorem State.addCall_txlen (s : State) (i : Nat) : (s.addCall i).txlen = s.txlen := rfl
@[simp] theorem State.addCall_dest (s : State) (i : Nat) : (s.addCall i).dest = s.dest := rfl
@[simp] theorem State.addCall_pendValid (s : State) (i : Nat) : (s.addCall i).pendValid = s.pendValid := rfl
@[simp] theorem State.addCall_pendCount (s : State) (i : Nat) : (s.addCall i).pendCount = s.pendCount := rfl
@[simp] theorem State.addCall_fault (s : State) (i : Nat) : (s.addCall i).fault = s.fault := rfl
@[simp] theorem State.addCall_ctxs (s : State) (i : Nat) : (s.addCall i).ctxs = s.ctxs := rfl
@[simp] theorem State.addCall_evlog (s : State) (i : Nat) : (s.addCall i).evlog = s.evlog := rfl
@[simp] theorem State.addCall_cdata (s : State) (i : Nat) : (s.addCall i).cdata = s.cdata := rfl
@[simp] theorem State.addCall_out (s : State) (i : Nat) : (s.addCall i).out = s.out := rfl
@[simp] theorem State.addCall_calls (s : State) (i : Nat) : (s.addCall i).calls = s.calls ++ [i] := rfl
@[simp] theorem State.addCall_inputs (s : State) (i : Nat) : (s.addCall i).inputs = s.inputs := rfl
@[simp] theorem State.addCall_draws (s : State) (i : Nat) : (s.addCall i).draws = s.draws := rfl
@[simp] theorem State.addCall_epoch (s : State) (i : Nat) : (s.addCall i).epoch = s.epoch := rfl
@[simp] theorem State.addCall_txByte (s : State) (i : Nat) (k : Nat) : (s.addCall i).txByte k = s.txByte k := rfl
@[simp] theorem State.addCall_cdataByte (s : State) (i : Nat) (k : Nat) : (s.addCall i).cdataByte k = s.cdataByte k := rfl

@[simp] theorem State.endCall_cfg (s : State) (i : Nat) : (s.endCall i).cfg = s.cfg := rfl
@[simp] theorem State.endCall_lockOwner (s : State) (i : Nat) : (s.endCall i).lockOwner = s.lockOwner := rfl
@[simp] theorem State.endCall_lockReported (s : State) (i : Nat) : (s.endCall i).lockReported = s.lockReported := rfl
@[simp] theorem State.endCall_txbuf (s : State) (i : Nat) : (s.endCall i).txbuf = s.txbuf := rfl
@[simp] theorem State.endCall_txlen (s : State) (i : Nat) : (s.endCall i).txlen = s.txlen := rfl
@[simp] theorem State.endCall_dest (s : State) (i : Nat) : (s.endCall i).dest = s.dest := rfl
@[simp] theorem State.endCall_pendValid (s : State) (i : Nat) : (s.endCall i).pendValid = s.pendValid := rfl
@[simp] theorem State.endCall_pendCount (s : State) (i : Nat) : (s.endCall i).pendCount = s.pendCount := rfl
@[simp] theorem State.endCall_fault (s : State) (i : Nat) : (s.endCall i).fault = s.fault := rfl
@[simp] theorem State.endCall_ctxs (s : State) (i : Nat) : (s.endCall i).ctxs = s.ctxs := rfl
@[simp] theorem State.endCall_evlog (s : State) (i : Nat) : (s.endCall i).evlog = s.evlog := rfl
@[simp] theorem State.endCall_cdata (s : State) (i : Nat) : (s.endCall i).cdata = s.cdata := rfl
@[simp] theorem State.endCall_out (s : State) (i : Nat) : (s.endCall i).out = s.out := rfl
@[simp] theorem State.endCall_calls (s : State) (i : Nat) : (s.endCall i).calls = s.calls.filter (· ≠ i) := rfl
@[simp] theorem State.endCall_inputs (s : State) (i : Nat) : (s.endCall i).inputs = s.inputs := rfl
@[simp] theorem State.endCall_draws (s : State) (i : Nat) : (s.endCall i).draws = s.draws := rfl
@[simp] theorem State.endCall_epoch (s : State) (i : Nat) : (s.endCall i).epoch = s.epoch := rfl
@[simp] theorem State.endCall_txByte (s : State) (i : Nat) (k : Nat) : (s.endCall i).txByte k = s.txByte k := rfl
@[simp] theorem State.endCall_cdataByte (s : State) (i : Nat) (k : Nat) : (s.endCall i).cdataByte k = s.cdataByte k := rfl

@[simp] theorem State.draw_cfg (s : State) : (s.draw).cfg = s.cfg := rfl
@[simp] theorem State.draw_lockOwner (s : State) : (s.draw).lockOwner = s.lockOwner := rfl
@[simp] theorem State.draw_lockReported (s : State) : (s.draw).lockReported = s.lockReported := rfl
@[simp] theorem State.draw_txbuf (s : State) : (s.draw).txbuf = s.txbuf := rfl
@[simp] theorem State.draw_txlen (s : State) : (s.draw).txlen = s.txlen := rfl
@[simp] theorem State.draw_dest (s : State) : (s.draw).dest = s.dest := rfl
@[simp] theorem State.draw_pendValid (s : State) : (s.draw).pendValid = s.pendValid := rfl
@[simp] theorem State.draw_pendCount (s : State) : (s.draw).pendCount = s.pendCount := rfl
@[simp] theorem State.draw_fault (s : State) : (s.draw).fault = s.fault := rfl
@[simp] theorem State.draw_ctxs (s : State) : (s.draw).ctxs = s.ctxs := rfl
@[simp] theorem State.draw_evlog (s : State) : (s.draw).evlog = s.evlog := rfl
@[simp] theorem State.draw_cdata (s : State) : (s.draw).cdata = s.cdata := rfl
@[simp] theorem State.draw_out (s : State) : (s.draw).out = s.out := rfl
@[simp] theorem State.draw_calls (s : State) : (s.draw).calls = s.calls := rfl
@[simp] theorem State.draw_inputs (s : State) : (s.draw).inputs = s.inputs := rfl
@[simp] theorem State.draw_draws (s : State) : (s.draw).draws = s.draws + 1 := rfl
@[simp] theorem State.draw_epoch (s : State) : (s.draw).epoch = s.epoch := rfl
@[simp] theorem State.draw_txByte (s : State) (k : Nat) : (s.draw).txByte k = s.txByte k := rfl
@[simp] theorem State.draw_cdataByte (s : State) (k : Nat) : (s.draw).cdataByte k = s.cdataByte k := rfl

end Sys2Proof.Machine
end

