-- ==== Sys2Proof/Laws/Memory.lean ====
section
/-! SUPPORT. The laws of byte memories: read after write, and the canonical form is kept. -/

namespace Sys2Proof.Machine

@[simp] theorem Memory.get_set_same (m : Memory) (a : Nat) (b : Byte) : (Memory.set m a b).get a = some b := by
  induction m with
  | nil => simp [Memory.set, Memory.get]
  | cons x r ih =>
    obtain ⟨k, v⟩ := x
    simp only [Memory.set]
    split
    · simp [Memory.get]
    · split
      · simp [Memory.get]
      · have : k ≠ a := fun h => by omega
        simp [Memory.get, this, ih]

theorem Memory.get_set_other (m : Memory) {a x : Nat} (b : Byte) (h : x ≠ a) :
    (Memory.set m a b).get x = Memory.get m x := by
  induction m with
  | nil => simp [Memory.set, Memory.get, Ne.symm h]
  | cons y r ih =>
    obtain ⟨k, v⟩ := y
    simp only [Memory.set]
    split
    · simp [Memory.get, Ne.symm h]
    · split
      · rename_i _ hk
        subst hk
        simp [Memory.get, Ne.symm h]
      · simp [Memory.get, ih]

/-- Every address of `Memory.set m a b` is `a` or an address of `m`. -/
theorem Memory.mem_set (m : Memory) (a : Nat) (b : Byte) (x : Host.Cell) (h : x ∈ Memory.set m a b) :
    x = (a, b) ∨ x ∈ m := by
  induction m with
  | nil => simpa [Memory.set] using h
  | cons y r ih =>
    obtain ⟨k, v⟩ := y
    simp only [Memory.set] at h
    split at h
    · simpa using h
    · split at h
      · rcases List.mem_cons.1 h with h | h
        · exact .inl h
        · exact .inr (List.mem_cons_of_mem _ h)
      · rcases List.mem_cons.1 h with h | h
        · exact .inr (h ▸ List.mem_cons_self)
        · exact (ih h).imp_right (List.mem_cons_of_mem _)

/-- Writing a byte keeps the canonical form. -/
theorem Memory.wf_set (m : Memory) (a : Nat) (b : Byte) (h : m.wf) : (Memory.set m a b).wf := by
  induction m with
  | nil => simp [Memory.set, Memory.wf]
  | cons y r ih =>
    obtain ⟨k, v⟩ := y
    obtain ⟨hk, hr⟩ := List.pairwise_cons.1 h
    simp only [Memory.set]
    split
    · rename_i hlt
      refine List.pairwise_cons.2 ⟨fun x hx => ?_, h⟩
      rcases List.mem_cons.1 hx with rfl | hx
      · exact hlt
      · exact Nat.lt_trans hlt (hk x hx)
    · split
      · rename_i _ heq
        subst heq
        exact List.pairwise_cons.2 ⟨hk, hr⟩
      · refine List.pairwise_cons.2 ⟨fun x hx => ?_, ih hr⟩
        rcases Memory.mem_set r a b x hx with rfl | hx
        · show k < a; omega
        · exact hk x hx

/-- What a byte reads as after a range of bytes was written. -/
theorem Memory.get_write (m : Memory) (a : Nat) (l : List Byte) (x : Nat) :
    (Memory.write m a l).get x = if a ≤ x then (l[x - a]?).or (Memory.get m x) else Memory.get m x := by
  induction l generalizing m a with
  | nil => simp [Memory.write]
  | cons b r ih =>
    simp only [Memory.write]
    rw [ih]
    by_cases h : x = a
    · subst h
      have : ¬ x + 1 ≤ x := by omega
      simp [this]
    · rw [Memory.get_set_other m b h]
      by_cases h1 : a + 1 ≤ x
      · have h2 : x - a = (x - (a + 1)) + 1 := by omega
        have h3 : a ≤ x := by omega
        simp [h1, h2, h3]
      · have h3 : ¬ a ≤ x := by omega
        simp [h1, h3]

theorem Memory.wf_write (m : Memory) (a : Nat) (l : List Byte) (h : m.wf) : (Memory.write m a l).wf := by
  induction l generalizing m a with
  | nil => exact h
  | cons b r ih => exact ih _ _ (Memory.wf_set m a b h)

/-- The addresses a range write adds lie in the range. -/
theorem Memory.mem_write (m : Memory) (a : Nat) (l : List Byte) (x : Host.Cell) (h : x ∈ Memory.write m a l) :
    (a ≤ x.1 ∧ x.1 < a + l.length) ∨ x ∈ m := by
  induction l generalizing m a with
  | nil => exact .inr h
  | cons b r ih =>
    rcases ih _ _ h with h | h
    · left; simp only [List.length_cons]; omega
    · rcases Memory.mem_set m a b x h with rfl | h
      · left; simp only [List.length_cons]; omega
      · exact .inr h

@[simp] theorem readBytes_length (f : Nat → Byte) (a n : Nat) : (readBytes f a n).length = n := by
  simp [readBytes]

@[simp] theorem readBytes_getElem? (f : Nat → Byte) (a n k : Nat) :
    (readBytes f a n)[k]? = if k < n then some (f (a + k)) else none := by
  by_cases h : k < n <;> simp [readBytes, h]

@[simp] theorem readBytes_getElem (f : Nat → Byte) (a n k : Nat) (h : k < (readBytes f a n).length) :
    (readBytes f a n)[k] = f (a + k) := by
  simp [readBytes]

/-- Two readers that agree on a range read the same bytes. -/
theorem readBytes_congr {f g : Nat → Byte} {a b n : Nat} (h : ∀ k, k < n → f (a + k) = g (b + k)) :
    readBytes f a n = readBytes g b n := by
  apply List.ext_getElem?
  intro k
  by_cases hk : k < n
  · rw [readBytes_getElem?, readBytes_getElem?, if_pos hk, if_pos hk, h k hk]
  · rw [readBytes_getElem?, readBytes_getElem?, if_neg hk, if_neg hk]

/-- A byte of `TXBUF` after a range write. -/
theorem State.txByte_setTx_write (s : State) (a : Nat) (l : List Byte) (n : Half) (d : Byte) (x : Nat) :
    (s.setTx (s.txbuf.write a l) n d).txByte x = if a ≤ x then (l[x - a]?).getD (s.txByte x) else s.txByte x := by
  simp only [State.txByte, State.setTx, Memory.get_write]
  by_cases h : a ≤ x
  · simp only [h, if_true]
    cases l[x - a]? <;> simp
  · simp [h]

end Sys2Proof.Machine
end

