-- ==== Sys2Proof/Laws/Ops.lean ====
section
/-! SUPPORT. What each shared operation can do. -/

namespace Sys2Proof.Machine

open Sys2Proof.Safety

/-- An operation on a context that exists is that operation. -/
theorem onCtx_some {i : Nat} {s : State} {c : Ctx} (f : Ctx → Out) (h : s.ctxs[i]? = some c) : onCtx i s f = f c := by
  simp [onCtx, h]

/-- An operation on a context answers a next state only for a context that exists. -/
theorem onCtx_next {i : Nat} {s t : State} {f : Ctx → Out} (h : onCtx i s f = .next t) :
    ∃ c, s.ctxs[i]? = some c ∧ f c = .next t := by
  unfold onCtx at h
  split at h
  · exact ⟨_, ‹_›, h⟩
  · cases h

/-- Reading a context after a context was written. -/
theorem State.setCtx_get (s : State) (i k : Nat) (c d : Ctx) (h : s.ctxs[i]? = some c) :
    (s.setCtx i d).ctxs[k]? = if k = i then some d else s.ctxs[k]? := by
  obtain ⟨hi, -⟩ := List.getElem?_eq_some_iff.1 h
  by_cases hk : k = i
  · subst hk
    simp [hi]
  · have : i ≠ k := fun e => hk e.symm
    simp [hk, this]

/-- `accepting` finds the context that satisfies `ACC(i)`, with its registers. -/
theorem accepting_some_iff (s : State) (i : Nat) (c : Ctx) :
    accepting s = some (i, c) ↔ Accepts s i ∧ s.ctxs[i]? = some c := by
  unfold accepting Accepts
  cases h : s.lockOwner with
  | none => simp
  | ext => simp
  | ctx j =>
    cases hc : s.ctxs[j]? with
    | none =>
      simp only [hc, Owner.ctx.injEq]
      constructor
      · intro h; cases h
      · rintro ⟨⟨rfl, _, d, hd, _⟩, _⟩
        rw [hc] at hd; cases hd
    | some d =>
      simp only [hc, Owner.ctx.injEq]
      constructor
      · intro h
        by_cases hp : (d.phase = .sent ∨ d.phase = .awaiting) ∧ s.lockReported = false
        · rw [if_pos hp] at h
          cases h
          exact ⟨⟨rfl, hp.2, _, hc, hp.1⟩, hc⟩
        · rw [if_neg hp] at h; cases h
      · rintro ⟨⟨rfl, hr, d', hd', hp⟩, hd⟩
        rw [hc] at hd' hd
        cases hd'; cases hd
        rw [if_pos ⟨hp, hr⟩]

/-- `accepting` finds nothing exactly where no context satisfies `ACC`. -/
theorem accepting_none_iff (s : State) : accepting s = none ↔ ∀ i, ¬ Accepts s i := by
  constructor
  · intro h i hi
    have hi' := hi
    obtain ⟨_, _, c, hc, _⟩ := hi
    have := (accepting_some_iff s i c).2 ⟨hi', hc⟩
    rw [h] at this; cases this
  · intro h
    cases ha : accepting s with
    | none => rfl
    | some p => exact absurd ((accepting_some_iff s p.1 p.2).1 ha).1 (h p.1)

@[simp] theorem refuse_eq (s : State) : refuse s = .next { s with out := .refused } := rfl

@[simp] theorem block_eq (s : State) : block s = .next { s with out := .blocked } := rfl

end Sys2Proof.Machine
end

