-- ==== Sys2Proof/Laws/Check.lean ====
section
/-! SUPPORT. A test that a concrete state meets the invariants: the quantifiers of `Invariant` as a run over its contexts. -/

namespace Sys2Proof.Safety

open Sys2Proof.Machine

/-- The clauses of `Invariant` on one context. -/
def ctxMeets (s : State) (i : Nat) (c : Ctx) : Bool :=
  decide (InFlight c → s.lockOwner = .ctx i ∧ s.lockReported = false) &&
  decide ((c.phase = .locked ∨ c.phase = .sent ∨ c.phase = .awaiting) → c.outcome = .empty → s.pendValid = true) &&
  decide (s.lockOwner = .ctx i → c.outcome ≠ .empty → s.lockReported = true) &&
  decide (c.outcome ≠ .empty → c.phase = .sent ∨ c.phase = .awaiting) &&
  decide (c.resultValid = true → c.phase = .idle) &&
  decide (c.phase = .faulted → s.fault ≠ .none) &&
  decide (c.arg.dptr < 2 ^ s.cfg.ptrW) &&
  decide (c.phase ≠ .idle → c.phase ≠ .faulted → argchk s.cfg c.arg.slave = true ∧ capchk s.cfg c.arg.dptr c.arg.dsize = .ok)

/-- The clauses on the owner of the slot, the pending request and the composite calls. -/
def sharedMeets (s : State) : Bool :=
  (match s.lockOwner with
    | .ctx i =>
      match s.ctxs[i]? with
      | some c =>
        decide (s.lockReported = true → s.pendValid = false) &&
        decide (s.pendValid = true → (c.phase = .locked ∨ c.phase = .sent ∨ c.phase = .awaiting) ∧ s.lockReported = false ∧
          c.outcome = .empty ∧ s.pendCount = c.arg.dsize ∧ readBytes s.txByte 5 2 = be16 s.pendCount)
      | none => false
    | .ext => !s.lockReported && !s.pendValid
    | .none => !s.lockReported && !s.pendValid) &&
  decide s.calls.Nodup &&
  s.calls.all fun i =>
    match s.ctxs[i]? with
    | some c => decide (c.phase ≠ .idle ∧ c.phase ≠ .faulted)
    | none => false

/-- The whole check. -/
def meets (s : State) : Bool :=
  decide s.cfg.Legal && decide (s.ctxs.length = s.cfg.nctx) &&
  decide (s.txbuf.wf ∧ ∀ x ∈ s.txbuf, x.1 < s.cfg.txbufSize) &&
  decide (s.cdata.wf ∧ ∀ x ∈ s.cdata, x.1 < 2 ^ s.cfg.ptrW) &&
  sharedMeets s && (List.range s.ctxs.length).all fun i =>
    match s.ctxs[i]? with
    | some c => ctxMeets s i c
    | none => false

/-- A state that passes the check meets the invariants. -/
theorem invariant_of_meets {s : State} (h : meets s = true) : Invariant s := by
  simp only [meets, Bool.and_eq_true, decide_eq_true_eq, List.all_eq_true, List.mem_range] at h
  obtain ⟨⟨⟨⟨⟨hcfg, hn⟩, htx⟩, hcd⟩, hsh⟩, hctx⟩ := h
  have key : ∀ (i : Nat) (c : Ctx), s.ctxs[i]? = some c → ctxMeets s i c = true := fun i c hc => by
    simpa [hc] using hctx i (List.getElem?_eq_some_iff.1 hc).1
  simp only [ctxMeets, Bool.and_eq_true, decide_eq_true_eq] at key
  simp only [sharedMeets, Bool.and_eq_true, decide_eq_true_eq, List.all_eq_true] at hsh
  obtain ⟨⟨hown, hnd⟩, hcalls⟩ := hsh
  refine ⟨hcfg, hn, htx, hcd, ?_, fun i c hc => (key i c hc).1.1.1.1.1.1.1, ?_, fun i c hc => (key i c hc).1.1.1.1.1.1.2,
    fun i c ho hc => (key i c hc).1.1.1.1.1.2 ho, ?_, fun i c hc => (key i c hc).1.1.1.1.2, fun i c hc => (key i c hc).1.1.1.2,
    fun i c hc => (key i c hc).1.1.2, fun i c hc => (key i c hc).1.2, fun i c hc => (key i c hc).2, hnd, fun i hi => ?_⟩
  · intro i ho
    simp only [ho] at hown
    split at hown
    · exact (List.getElem?_eq_some_iff.1 ‹_›).1
    · cases hown
  · intro hv
    split at hown
    · rename_i i ho
      split at hown
      · rename_i c hc
        simp only [Bool.and_eq_true, decide_eq_true_eq] at hown
        obtain ⟨h1, h2, h3, h4, h5⟩ := hown.2 hv
        exact ⟨i, c, ho, hc, h1, h2, h3, h4, h5⟩
      · cases hown
    · simp [hv] at hown
    · simp [hv] at hown
  · intro hr
    split at hown
    · rename_i i ho
      split at hown
      · simp only [Bool.and_eq_true, decide_eq_true_eq] at hown
        exact ⟨⟨i, ho⟩, hown.1 hr⟩
      · cases hown
    · simp [hr] at hown
    · simp [hr] at hown
  · have := hcalls i hi
    split at this
    · rename_i c hc
      simp only [decide_eq_true_eq] at this
      exact ⟨c, hc, this⟩
    · cases this

end Sys2Proof.Safety
end

