-- ==== Sys2Proof/Laws/Operands.lean ====
section
/-! SUPPORT. The laws of the byte orders, the frames and the operand checks. -/

namespace Sys2Proof.Machine

@[simp] theorem be16_length (v : Half) : (be16 v).length = 2 := rfl

@[simp] theorem be32_length (v : Word) : (be32 v).length = 4 := rfl

/-- Appending a byte below a value multiplies the value by 256 and adds the byte. -/
theorem append_byte_toNat {n : Nat} (x : BitVec n) (y : Byte) : (x ++ y).toNat = x.toNat * 256 + y.toNat := by
  rw [BitVec.toNat_append, Nat.shiftLeft_eq, Nat.mul_comm, ← Nat.two_pow_add_eq_or_of_lt y.isLt]

/-- R39's formula for `UBE16`, on the values. -/
theorem ube16_toNat (b0 b1 : Byte) : (ube16 b0 b1).toNat = b0.toNat * 256 + b1.toNat := append_byte_toNat b0 b1

/-- R98's formula for `UBE32`, on the values. -/
theorem ube32_toNat (b0 b1 b2 b3 : Byte) :
    (ube32 b0 b1 b2 b3).toNat = b0.toNat * 2 ^ 24 + b1.toNat * 2 ^ 16 + b2.toNat * 2 ^ 8 + b3.toNat := by
  simp only [ube32, append_byte_toNat]
  omega

/-- `UBE16(BE16(v)) = v`, R39. -/
@[simp] theorem ube16_be16 (v : Half) : ube16 (v.extractLsb' 8 8) (v.extractLsb' 0 8) = v := by
  apply BitVec.eq_of_toNat_eq
  have h := v.isLt
  rw [ube16_toNat]
  simp only [BitVec.extractLsb'_toNat, Nat.shiftRight_eq_div_pow]
  omega

/-- `UBE32(BE32(v)) = v`. -/
@[simp] theorem ube32_be32 (v : Word) :
    ube32 (v.extractLsb' 24 8) (v.extractLsb' 16 8) (v.extractLsb' 8 8) (v.extractLsb' 0 8) = v := by
  apply BitVec.eq_of_toNat_eq
  have h := v.isLt
  rw [ube32_toNat]
  simp only [BitVec.extractLsb'_toNat, Nat.shiftRight_eq_div_pow]
  omega

/-- The bytes of a 16-bit value put together are those bytes. -/
@[simp] theorem be16_ube16 (b0 b1 : Byte) : be16 (ube16 b0 b1) = [b0, b1] := by
  have h0 := b0.isLt
  have h1 := b1.isLt
  simp only [be16, List.cons.injEq, and_true]
  constructor <;> apply BitVec.eq_of_toNat_eq <;>
    simp only [BitVec.extractLsb'_toNat, ube16_toNat, Nat.shiftRight_eq_div_pow] <;> omega

/-- The bytes of a 32-bit value put together are those bytes. -/
@[simp] theorem be32_ube32 (b0 b1 b2 b3 : Byte) : be32 (ube32 b0 b1 b2 b3) = [b0, b1, b2, b3] := by
  have h0 := b0.isLt
  have h1 := b1.isLt
  have h2 := b2.isLt
  have h3 := b3.isLt
  simp only [be32, List.cons.injEq, and_true]
  refine ⟨?_, ?_, ?_, ?_⟩ <;> apply BitVec.eq_of_toNat_eq <;>
    simp only [BitVec.extractLsb'_toNat, ube32_toNat, Nat.shiftRight_eq_div_pow] <;> omega

/-- `ARGCHK` is the range test of R71. -/
theorem argchk_iff (c : Config) (slave : Byte) :
    argchk c slave = true ↔ 1 ≤ slave.toNat ∧ slave.toNat ≤ c.maxSlaves := by
  simp [argchk]

/-- `CAPCHK` answers `OK` exactly where R72 does. -/
theorem capchk_ok_iff (c : Config) (dptr : Nat) (dsize : Half) :
    capchk c dptr dsize = .ok ↔
      dsize.toNat ≤ c.payloadCap ∧ (dsize.toNat = 0 ∨ dptr + dsize.toNat ≤ 2 ^ c.ptrW) := by
  unfold capchk
  split
  · simp; omega
  · split
    · simp; omega
    · simp; omega

/-- `CAPCHK` answers `CAPACITY` exactly on an oversize payload. -/
theorem capchk_capacity_iff (c : Config) (dptr : Nat) (dsize : Half) :
    capchk c dptr dsize = .capacity ↔ c.payloadCap < dsize.toNat := by
  unfold capchk
  split
  · simp_all
  · split <;> simp <;> omega

/-- `CAPCHK` answers `POINTER` exactly on a range that leaves `CDATA`, the payload fitting. -/
theorem capchk_pointer_iff (c : Config) (dptr : Nat) (dsize : Half) :
    capchk c dptr dsize = .pointer ↔
      dsize.toNat ≤ c.payloadCap ∧ 0 < dsize.toNat ∧ 2 ^ c.ptrW < dptr + dsize.toNat := by
  unfold capchk
  split
  · simp; omega
  · split
    · simp; omega
    · simp; omega

/-- A response always gets a verdict, and this one, unless bytes 1 and 2 are to be read and are not there (R90). -/
theorem validateRsp_eq (c : Config) (v : Bool) (n : Half) (rsp : List Byte) (len : Half)
    (hc : c.pduSizeMin = 1) (hl : len = 3 → v = true → 3 ≤ rsp.length) :
    validateRsp c v n rsp len =
      some (if len = 3 ∧ v = true ∧ ube16 (rsp.getD 1 0) (rsp.getD 2 0) = n then excNone else excIllegalDataValue) := by
  unfold validateRsp
  by_cases h3 : len = 3
  · subst h3
    cases v with
    | false => simp [hc]
    | true =>
      match rsp, hl rfl rfl with
      | _ :: _ :: _ :: _, _ => simp [hc]
  · have : len.toNat ≠ 3 := fun h => h3 (BitVec.eq_of_toNat_eq h)
    simp only [hc, this, ne_eq, not_false_eq_true, if_true, h3, false_and, if_false]

/-- Where the bytes to be read are not there, there is no verdict. -/
theorem validateRsp_eq_none (c : Config) (n : Half) (rsp : List Byte) (hc : c.pduSizeMin = 1) (h : rsp.length < 3) :
    validateRsp c true n rsp 3 = none := by
  match rsp, h with
  | [], _ => simp [validateRsp, hc]
  | [_], _ => simp [validateRsp, hc]
  | [_, _], _ => simp [validateRsp, hc]

/-- Byte 0 of a response is not read (R91). -/
theorem validateRsp_head (c : Config) (v : Bool) (n : Half) (b b' : Byte) (r : List Byte) (len : Half) :
    validateRsp c v n (b :: r) len = validateRsp c v n (b' :: r) len := by
  unfold validateRsp
  match r with
  | [] => rfl
  | [_] => rfl
  | _ :: _ :: _ => rfl

@[simp] theorem reqBytes_length (fc : Byte) (baddr : Word) (count : Half) (data : List Byte) :
    (reqBytes fc baddr count data).length = 7 + data.length := by
  simp [reqBytes]
  omega

/-- The data of a request frame starts at offset 7 (R47). -/
theorem reqBytes_getElem?_data (fc : Byte) (baddr : Word) (count : Half) (data : List Byte) (k : Nat) :
    (reqBytes fc baddr count data)[7 + k]? = data[k]? := by
  simp [reqBytes, be32, be16, Nat.add_comm 7 k]

end Sys2Proof.Machine
end

