-- ==== Sys2Proof/Laws/Decode.lean ====
section
/-! SUPPORT. Each field reader reads back what its writer wrote, and writes back what it read. -/

namespace Sys2Proof

open Sys2Proof.Machine

@[simp] theorem get8_cons (b : Byte) (r : List Byte) : get8 (b :: r) = some (b, r) := rfl

@[simp] theorem get16_be16 (v : Half) (r : List Byte) : get16 (be16 v ++ r) = some (v, r) := by
  simp [be16, get16]

@[simp] theorem get32_be32 (v : Word) (r : List Byte) : get32 (be32 v ++ r) = some (v, r) := by
  simp [be32, get32]

theorem getNat_putNatFuel (f n : Nat) (r : List Byte) (h : n < f) : getNat (putNatFuel f n ++ r) = some (n, r) := by
  induction f generalizing n with
  | zero => omega
  | succ f ih =>
    simp only [putNatFuel]
    split
    · rename_i hn
      have e : n % 256 = n := by omega
      simp [getNat, e, hn]
    · rename_i hn
      have e : (128 + n % 128) % 256 = 128 + n % 128 := by omega
      have h2 : n / 128 - 1 < f := by omega
      simp only [List.cons_append, getNat, BitVec.toNat_ofNat, Nat.reducePow, e, ih _ h2]
      rw [if_neg (by omega)]
      simp only [Option.some.injEq, Prod.mk.injEq, and_true]
      omega

@[simp] theorem getNat_putNat (n : Nat) (r : List Byte) : getNat (putNat n ++ r) = some (n, r) :=
  getNat_putNatFuel _ _ _ (by omega)

@[simp] theorem getBytes_append (l r : List Byte) : getBytes l.length (l ++ r) = some (l, r) := by
  induction l with
  | nil => rfl
  | cons b l ih => simp [getBytes, ih]

@[simp] theorem getBytes_self (l : List Byte) : getBytes l.length l = some (l, []) := by
  simpa using getBytes_append l []

theorem get8_some {l : List Byte} {b : Byte} {r : List Byte} (h : get8 l = some (b, r)) : l = b :: r := by
  match l, h with
  | _ :: _, h => cases h; rfl

theorem get16_some {l : List Byte} {v : Half} {r : List Byte} (h : get16 l = some (v, r)) : l = be16 v ++ r := by
  match l, h with
  | a :: b :: _, h => cases h; simp

theorem get32_some {l : List Byte} {v : Word} {r : List Byte} (h : get32 l = some (v, r)) : l = be32 v ++ r := by
  match l, h with
  | a :: b :: c :: d :: _, h => cases h; simp

theorem getNat_some_fuel (f : Nat) {l : List Byte} {n : Nat} {r : List Byte} (h : getNat l = some (n, r)) (hf : n < f) :
    l = putNatFuel f n ++ r := by
  induction f generalizing l n with
  | zero => omega
  | succ f ih =>
    match l, h with
    | b :: l, h =>
      have hb := b.isLt
      simp only [getNat] at h
      split at h
      · rename_i hlt
        cases h
        simp [putNatFuel, hlt]
      · rename_i hge
        split at h
        · rename_i q r' hq
          simp only [Option.some.injEq, Prod.mk.injEq] at h
          obtain ⟨rfl, rfl⟩ := h
          have e1 : ((q + 1) * 128 + (b.toNat - 128)) / 128 - 1 = q := by omega
          have e2 : BitVec.ofNat 8 (128 + ((q + 1) * 128 + (b.toNat - 128)) % 128) = b := by
            apply BitVec.eq_of_toNat_eq
            simp only [BitVec.toNat_ofNat]
            omega
          have e3 : ¬ (q + 1) * 128 + (b.toNat - 128) < 128 := by omega
          have hr : l = putNatFuel f q ++ r' := ih hq (by omega)
          simp only [putNatFuel, e3, if_false, e1, e2, List.cons_append, hr]
        · cases h

theorem getNat_some {l : List Byte} {n : Nat} {r : List Byte} (h : getNat l = some (n, r)) : l = putNat n ++ r :=
  getNat_some_fuel _ h (by omega)

theorem getBytes_some {n : Nat} {l d r : List Byte} (h : getBytes n l = some (d, r)) : d.length = n ∧ l = d ++ r := by
  induction n generalizing l d r with
  | zero => cases h; exact ⟨rfl, rfl⟩
  | succ n ih =>
    match l, h with
    | b :: l, h =>
      simp only [getBytes] at h
      split at h
      · rename_i d' r' h'
        cases h
        obtain ⟨h1, h2⟩ := ih h'
        exact ⟨by simp [h1], by simp [h2]⟩
      · cases h

/-- Byte 0 of a record carries the form and the identifier apart. -/
theorem head_toNat (form opid : BitVec 4) : (head form opid).toNat = form.toNat * 16 + opid.toNat := by
  rw [head, BitVec.toNat_append, Nat.shiftLeft_eq, Nat.mul_comm, ← Nat.two_pow_add_eq_or_of_lt opid.isLt]

/-- A byte 0 is determined by its form and its identifier. -/
theorem eq_head (b : Byte) (form opid : BitVec 4) (h1 : b.toNat / 16 = form.toNat) (h2 : b.toNat % 16 = opid.toNat) :
    b = head form opid := by
  apply BitVec.eq_of_toNat_eq
  rw [head_toNat]
  omega

/-- The decoder on a record: the identifier and the form of byte 0 choose the operands. -/
theorem decode_op_head (form opid : BitVec 4) (r : List Byte) :
    decode .op (head form opid :: r) = decodeOp opid.toNat form.toNat r := by
  have h1 := form.isLt
  have h2 := opid.isLt
  have e1 : (head form opid).toNat % 16 = opid.toNat := by rw [head_toNat]; omega
  have e2 : (head form opid).toNat / 16 = form.toNat := by rw [head_toNat]; omega
  simp only [decode, e1, e2]

@[simp] theorem orTruncated_some {α : Type} (x : α) : orTruncated (some x) = .ok x := rfl

/-- A reader that yields something has read its operands. -/
theorem orTruncated_ok {α : Type} {o : Option α} {x : α} (h : orTruncated o = .ok x) : o = some x := by
  cases o with
  | none => cases h
  | some y => cases h; rfl

/-- What decodes as a whole decodes with nothing left. -/
theorem decodeAll_ok {f : Format} {l : List Byte} {i : Instr} (h : decodeAll f l = .ok i) : decode f l = .ok (i, []) := by
  unfold decodeAll at h
  split at h
  · cases h; assumption
  · cases h
  · cases h

theorem decodeAll_of_decode {f : Format} {l : List Byte} {i : Instr} (h : decode f l = .ok (i, [])) :
    decodeAll f l = .ok i := by
  simp [decodeAll, h]

/-- The operands of a call are read back. -/
theorem getCall_putCall (f : Nat → Byte → Word → Nat → Half → Word → Instr) (i : Nat) (slave : Byte) (baddr : Word)
    (dptr : Nat) (dsize : Half) (tmo : Word) (r : List Byte) :
    getCall f (putCall i slave baddr dptr dsize tmo ++ r) = .ok (f i slave baddr dptr dsize tmo, r) := by
  simp [getCall, putCall]

/-- A context number is read back. -/
theorem getCtx_putNat (f : Nat → Instr) (i : Nat) (r : List Byte) : getCtx f (putNat i ++ r) = .ok (f i, r) := by
  simp [getCtx]

/-- `RSP` and `LEN` are read back. -/
theorem getRsp_putRsp (f : List Byte → Half → Instr) (rsp : List Byte) (len : Half) :
    getRsp f (putRsp rsp len) = .ok (f rsp len, []) := by
  simp [getRsp, putRsp]

/-- What is read as a context number is one, as it would be written. -/
theorem getCtx_ok {f : Nat → Instr} {r rest : List Byte} {i : Instr} (h : getCtx f r = .ok (i, rest)) :
    ∃ n, i = f n ∧ r = putNat n ++ rest := by
  have h := orTruncated_ok h
  simp only [Option.map_eq_some_iff, Prod.exists] at h
  obtain ⟨n, r', h1, he⟩ := h
  cases he
  exact ⟨n, rfl, getNat_some h1⟩

/-- What is read as the operands of a call is those, as they would be written. -/
theorem getCall_ok {f : Nat → Byte → Word → Nat → Half → Word → Instr} {r rest : List Byte} {i : Instr}
    (h : getCall f r = .ok (i, rest)) :
    ∃ n slave baddr dptr dsize tmo, i = f n slave baddr dptr dsize tmo ∧ r = putCall n slave baddr dptr dsize tmo ++ rest := by
  have h := orTruncated_ok h
  simp only [Option.bind_eq_some_iff, Option.map_eq_some_iff, Prod.exists] at h
  obtain ⟨n, r1, h1, slave, r2, h2, baddr, r3, h3, dptr, r4, h4, dsize, r5, h5, tmo, r6, h6, he⟩ := h
  cases he
  refine ⟨n, slave, baddr, dptr, dsize, tmo, rfl, ?_⟩
  simp [putCall, getNat_some h1, get8_some h2, get32_some h3, getNat_some h4, get16_some h5, get32_some h6]

/-- What is read as `RSP` and `LEN` is those, as they would be written. -/
theorem getRsp_ok {f : List Byte → Half → Instr} {r rest : List Byte} {i : Instr} (h : getRsp f r = .ok (i, rest)) :
    ∃ rsp len, i = f rsp len ∧ r = putRsp rsp len ++ rest := by
  have h := orTruncated_ok h
  simp only [Option.bind_eq_some_iff, Option.map_eq_some_iff, Prod.exists] at h
  obtain ⟨len, r1, h1, n, r2, h2, rsp, r3, h3, he⟩ := h
  cases he
  obtain ⟨hn, h3⟩ := getBytes_some h3
  refine ⟨rsp, len, rfl, ?_⟩
  simp [putRsp, get16_some h1, getNat_some h2, h3, hn]

end Sys2Proof
end

