-- ==== Sys2Proof/Laws/Exec.lean ====
section
/-! SUPPORT. For each meaning, everything it can do: if it answers a next state, then one of these cases holds. -/

namespace Sys2Proof.Machine

open Sys2Proof.Safety

/-- The call entry (R93). -/
theorem enterCall_next {acc : Ctx → State} {i : Nat} {slave : Byte} {dptr : Nat} {dsize : Half} {s t : State}
    (h : enterCall acc i slave dptr dsize s = .next t) :
    ∃ c, s.ctxs[i]? = some c ∧
      ((c.phase ≠ .idle ∧ t = s.respond .refused) ∨
        (c.phase = .idle ∧ argchk s.cfg slave = false ∧ t = returnCode i c .illegalArgument s) ∨
        (c.phase = .idle ∧ argchk s.cfg slave = true ∧ capchk s.cfg dptr dsize = .capacity ∧
          t = raiseFault i c (.capacity i) s) ∨
        (c.phase = .idle ∧ argchk s.cfg slave = true ∧ capchk s.cfg dptr dsize = .pointer ∧
          t = raiseFault i c (.pointer i) s) ∨
        (c.phase = .idle ∧ argchk s.cfg slave = true ∧ capchk s.cfg dptr dsize = .ok ∧ t = acc c)) := by
  obtain ⟨c, hc, h⟩ := onCtx_next h
  refine ⟨c, hc, ?_⟩
  by_cases hp : c.phase = .idle
  · simp only [hp, ne_eq, not_true_eq_false, if_false] at h
    cases ha : argchk s.cfg slave with
    | false => simp only [ha, if_true] at h; cases h; simp [hp]
    | true =>
      simp only [ha, Bool.true_eq_false, if_false] at h
      cases hk : capchk s.cfg dptr dsize <;> simp only [hk] at h <;> cases h <;> simp [hp]
  · simp only [hp, ne_eq, not_false_eq_true, if_true] at h
    cases h
    exact .inl ⟨hp, rfl⟩

/-- `ACQUIRE` (R75). -/
theorem execAcquire_next {i : Nat} {s t : State} (h : execAcquire i s = .next t) :
    ∃ c, s.ctxs[i]? = some c ∧
      ((c.phase ≠ .acquiring ∧ t = s.respond .refused) ∨
        (c.phase = .acquiring ∧ s.lockOwner = .none ∧ t = takeSlot i c s) ∨
        (c.phase = .acquiring ∧ s.lockOwner ≠ .none ∧ c.arg.tmo = s.cfg.infiniteWait ∧ t = s.respond .blocked) ∨
        (c.phase = .acquiring ∧ s.lockOwner ≠ .none ∧ c.arg.tmo ≠ s.cfg.infiniteWait ∧
          t = returnCode i c .masterBusy s.draw) ∨
        (c.phase = .acquiring ∧ s.lockOwner ≠ .none ∧ c.arg.tmo ≠ s.cfg.infiniteWait ∧
          t = s.draw.respond .blocked)) := by
  obtain ⟨c, hc, h⟩ := onCtx_next h
  refine ⟨c, hc, ?_⟩
  by_cases hp : c.phase = .acquiring
  · simp only [hp, ne_eq, not_true_eq_false, if_false] at h
    by_cases ho : s.lockOwner = .none
    · simp only [ho, if_true] at h; cases h; simp [hp, ho]
    · simp only [ho, if_false] at h
      by_cases hi : c.arg.tmo = s.cfg.infiniteWait
      · simp only [hi, if_true] at h; cases h; simp [hp, ho, hi]
      · simp only [hi, if_false] at h
        split at h
        · cases h; exact .inr (.inr (.inr (.inl ⟨hp, ho, hi, rfl⟩)))
        · cases h; exact .inr (.inr (.inr (.inr ⟨hp, ho, hi, rfl⟩)))
  · simp only [hp, ne_eq, not_false_eq_true, if_true] at h
    cases h
    exact .inl ⟨hp, rfl⟩

/-- `BUILD` (R74). -/
theorem execBuild_next {i : Nat} {s t : State} (h : execBuild i s = .next t) :
    ∃ c, s.ctxs[i]? = some c ∧
      ((c.phase ≠ .serializing ∧ t = s.respond .refused) ∨
        (c.phase = .serializing ∧ 7 + c.arg.dsize.toNat ≤ s.cfg.txbufSize ∧ t = buildRequest i c s)) := by
  obtain ⟨c, hc, h⟩ := onCtx_next h
  refine ⟨c, hc, ?_⟩
  by_cases hp : c.phase = .serializing
  · simp only [hp, ne_eq, not_true_eq_false, if_false] at h
    split at h
    · cases h
    · split at h
      · cases h
      · cases h
        exact .inr ⟨hp, by omega, rfl⟩
  · simp only [hp, ne_eq, not_false_eq_true, if_true] at h
    cases h
    exact .inl ⟨hp, rfl⟩

/-- `POST` (R81). -/
theorem execPost_next {i : Nat} {s t : State} (h : execPost i s = .next t) :
    ∃ c, s.ctxs[i]? = some c ∧
      ((c.phase ≠ .locked ∧ t = s.respond .refused) ∨
        (c.phase = .locked ∧ t = ((s.emit (.txEvent i)).setCtx i { c with phase := .sent }).respond .done)) := by
  obtain ⟨c, hc, h⟩ := onCtx_next h
  refine ⟨c, hc, ?_⟩
  split at h
  · cases h; exact .inr ⟨‹_›, rfl⟩
  · cases h; exact .inl ⟨‹_›, rfl⟩

/-- `WAIT` (R83). -/
theorem execWait_next {i : Nat} {s t : State} (h : execWait i s = .next t) :
    ∃ c, s.ctxs[i]? = some c ∧
      ((c.phase ≠ .sent ∧ t = s.respond .refused) ∨
        (c.phase = .sent ∧ t = (s.setCtx i { c with phase := .awaiting }).respond .done)) := by
  obtain ⟨c, hc, h⟩ := onCtx_next h
  refine ⟨c, hc, ?_⟩
  split at h
  · cases h; exact .inr ⟨‹_›, rfl⟩
  · cases h; exact .inl ⟨‹_›, rfl⟩

@[simp] theorem translateOutcome_eq_none_iff (o : OutcomeReg) : translateOutcome o = none ↔ o = .empty := by
  cases o <;> simp [translateOutcome]

/-- `WAKE` (R84). -/
theorem execWake_next {i : Nat} {s t : State} (h : execWake i s = .next t) :
    ∃ c, s.ctxs[i]? = some c ∧
      ((c.phase ≠ .awaiting ∧ t = s.respond .refused) ∨
        (c.phase = .awaiting ∧ c.outcome = .empty ∧ t = s.respond .blocked) ∨
        (c.phase = .awaiting ∧ c.outcome ≠ .empty ∧ ∃ code, translateOutcome c.outcome = some code ∧
          t = returnCode i { c with outcome := .empty } code s)) := by
  obtain ⟨c, hc, h⟩ := onCtx_next h
  refine ⟨c, hc, ?_⟩
  split at h
  · rename_i hp
    split at h
    · rename_i code hcode
      cases h
      refine .inr (.inr ⟨hp, fun he => ?_, code, hcode, rfl⟩)
      rw [he] at hcode
      cases hcode
    · rename_i hnone
      cases h
      exact .inr (.inl ⟨hp, (translateOutcome_eq_none_iff _).1 hnone, rfl⟩)
  · cases h; exact .inl ⟨‹_›, rfl⟩

/-- A verdict changes the result given and nothing else (R90). -/
theorem giveVerdict_next {rsp : List Byte} {len : Half} {s t : State} (h : giveVerdict rsp len s = .next t) :
    ∃ e, validateRsp s.cfg s.pendValid s.pendCount rsp len = some e ∧ t = s.respond (.verdict e) := by
  unfold giveVerdict at h
  split at h
  · cases h; exact ⟨_, ‹_›, rfl⟩
  · cases h

/-- `REPORT_RSP` (R86, R89). -/
theorem execReportRsp_next {rsp : List Byte} {len : Half} {s t : State} (h : execReportRsp rsp len s = .next t) :
    ∃ e, validateRsp s.cfg s.pendValid s.pendCount rsp len = some e ∧
      ((∃ i c, Accepts s i ∧ s.ctxs[i]? = some c ∧
          t = report i c (outcomeOf e) (.acceptedOutcome (outcomeOf e) e) s) ∨
        ((∀ i, ¬ Accepts s i) ∧ t = discardReport .rsp (some e) s)) := by
  unfold execReportRsp at h
  split at h
  · cases h
  · refine ⟨_, ‹_›, ?_⟩
    split at h
    · rename_i i c ha
      cases h
      exact .inl ⟨i, c, ((accepting_some_iff s i c).1 ha).1, ((accepting_some_iff s i c).1 ha).2, rfl⟩
    · rename_i ha
      cases h
      exact .inr ⟨(accepting_none_iff s).1 ha, rfl⟩

/-- `REPORT_EXC` (R87, R89). -/
theorem execReportExc_next {code : Exc} {s t : State} (h : execReportExc code s = .next t) :
    (∃ i c, Accepts s i ∧ s.ctxs[i]? = some c ∧ code ≠ excNone ∧ t = report i c .protocolException .accepted s) ∨
      (((∀ i, ¬ Accepts s i) ∨ code = excNone) ∧ t = discardReport .exc none s) := by
  unfold execReportExc at h
  split at h
  · rename_i i c ha
    have ha := (accepting_some_iff s i c).1 ha
    split at h
    · cases h; exact .inr ⟨.inr ‹_›, rfl⟩
    · cases h; exact .inl ⟨i, c, ha.1, ha.2, ‹_›, rfl⟩
  · rename_i ha
    cases h
    exact .inr ⟨.inl ((accepting_none_iff s).1 ha), rfl⟩

/-- `REPORT_TMO` (R88, R89). -/
theorem execReportTmo_next {s t : State} (h : execReportTmo s = .next t) :
    (∃ i c, Accepts s i ∧ s.ctxs[i]? = some c ∧ t = report i c .timeout .accepted s) ∨
      ((∀ i, ¬ Accepts s i) ∧ t = discardReport .tmo none s) := by
  unfold execReportTmo at h
  split at h
  · rename_i i c ha
    cases h
    exact .inl ⟨i, c, ((accepting_some_iff s i c).1 ha).1, ((accepting_some_iff s i c).1 ha).2, rfl⟩
  · rename_i ha
    cases h
    exact .inr ⟨(accepting_none_iff s).1 ha, rfl⟩

/-- `RELEASE` (R76). -/
theorem execRelease_next {s t : State} (h : execRelease s = .next t) :
    (∃ i, s.lockOwner = .ctx i ∧ s.lockReported = true ∧ t = (s.setLock .none false).respond .done) ∨
      (((∀ i, s.lockOwner ≠ .ctx i) ∨ s.lockReported = false) ∧ t = s.respond .refused) := by
  unfold execRelease at h
  split at h
  · rename_i i ho
    split at h
    · rename_i hr
      cases h; exact .inl ⟨i, ho, hr, rfl⟩
    · rename_i hr
      cases h; exact .inr ⟨.inr (by simpa using hr), rfl⟩
  · rename_i ho
    cases h; exact .inr ⟨.inl (by simp [ho]), rfl⟩
  · rename_i ho
    cases h; exact .inr ⟨.inl (by simp [ho]), rfl⟩

/-- `XACQUIRE` (R77). -/
theorem execXacquire_next {s t : State} (h : execXacquire s = .next t) :
    (s.lockOwner = .none ∧ t = (s.setLock .ext false).respond .done) ∨
      (s.lockOwner ≠ .none ∧ t = s.respond .refused) := by
  unfold execXacquire at h
  split at h
  · cases h; exact .inl ⟨‹_›, rfl⟩
  · cases h; exact .inr ⟨‹_›, rfl⟩

/-- `XWRITE` (R78). -/
theorem execXwrite_next {x : XTarget} {s t : State} (h : execXwrite x s = .next t) :
    (s.lockOwner = .ext ∧
        ((∃ off b, x = .byte off b ∧ off < s.cfg.txbufSize ∧
            t = (s.setTx (s.txbuf.write off [b]) s.txlen s.dest).respond .done) ∨
          (∃ v, x = .txlen v ∧ t = (s.setTx s.txbuf v s.dest).respond .done) ∨
          (∃ v, x = .dest v ∧ t = (s.setTx s.txbuf s.txlen v).respond .done))) ∨
      (s.lockOwner ≠ .ext ∧ t = s.respond .refused) := by
  unfold execXwrite at h
  split at h
  · rename_i ho
    refine .inl ⟨ho, ?_⟩
    cases x with
    | byte off b =>
      simp only at h
      split at h
      · cases h; exact .inl ⟨off, b, rfl, ‹_›, rfl⟩
      · cases h
    | txlen v => cases h; exact .inr (.inl ⟨v, rfl, rfl⟩)
    | dest v => cases h; exact .inr (.inr ⟨v, rfl, rfl⟩)
  · cases h; exact .inr ⟨‹_›, rfl⟩

/-- `XRELEASE` (R79). -/
theorem execXrelease_next {s t : State} (h : execXrelease s = .next t) :
    (s.lockOwner = .ext ∧ t = (s.setLock .none s.lockReported).respond .done) ∨
      (s.lockOwner ≠ .ext ∧ t = s.respond .refused) := by
  unfold execXrelease at h
  split at h
  · cases h; exact .inl ⟨‹_›, rfl⟩
  · cases h; exact .inr ⟨‹_›, rfl⟩

/-- The reads and checks (`TXREAD`, a request frame) give a result and change nothing else (R45, R82). -/
theorem execTxread_next {s t : State} (h : execTxread s = .next t) : ∃ r, t = s.respond r ∧ r ≠ .refused ∧
    r ≠ .blocked ∧ ∀ code, r ≠ .returned code := by
  cases h
  exact ⟨_, rfl, by simp, by simp, by simp⟩

theorem execReqFrame_next {fc : Byte} {baddr : Word} {count : Half} {data : List Byte} {s t : State}
    (h : execReqFrame fc baddr count data s = .next t) : ∃ same, t = s.respond (.resident same) := by
  cases h
  exact ⟨_, rfl⟩

/-- What one presented input does. -/
theorem present_next {x : Input} {s t : State} (h : present x s = .next t) :
    (∃ f bytes i, x = inputOf f bytes ∧ decodeAll f bytes = .ok i ∧ i.legal s.cfg = true ∧ exec i s = .next t) ∨
      (∃ a b, x = .cdata a b ∧ a < 2 ^ s.cfg.ptrW ∧ t = { s with cdata := s.cdata.set a b }) ∨
      (x = .reset ∧ t = resetInPlace s) := by
  have run : ∀ f bytes, runBytes f bytes s = .next t →
      ∃ i, decodeAll f bytes = .ok i ∧ i.legal s.cfg = true ∧ exec i s = .next t := fun f bytes h => by
    unfold runBytes at h
    split at h
    · split at h
      · exact ⟨_, ‹_›, ‹_›, h⟩
      · cases h
    · cases h
  cases x with
  | op bytes => obtain ⟨i, h⟩ := run .op bytes h; exact .inl ⟨.op, bytes, i, rfl, h⟩
  | rsp bytes => obtain ⟨i, h⟩ := run .rsp bytes h; exact .inl ⟨.rsp, bytes, i, rfl, h⟩
  | req bytes => obtain ⟨i, h⟩ := run .req bytes h; exact .inl ⟨.req, bytes, i, rfl, h⟩
  | cdata a b =>
    simp only [present, callerWrite] at h
    split at h
    · cases h
    · split at h
      · cases h
      · cases h; exact .inr (.inl ⟨a, b, rfl, by omega, rfl⟩)
  | reset => cases h; exact .inr (.inr ⟨rfl, rfl⟩)

/-- What the machine does when nothing is presented. -/
theorem engineTurn_next {s t : State} (h : engineTurn s = .next t) :
    (s.calls = [] ∧ t = s) ∨
      (∃ i rest, s.calls = i :: rest ∧
        ((∃ c op, s.ctxs[i]? = some c ∧ engineOp i c.phase = some op ∧
            exec op { s with calls := rest ++ [i] } = .next t) ∨
          t = { s with calls := rest })) := by
  unfold engineTurn at h
  split at h
  · cases h; exact .inl ⟨‹_›, rfl⟩
  · rename_i i rest hcalls
    refine .inr ⟨i, rest, hcalls, ?_⟩
    split at h
    · rename_i op hop
      cases hc : s.ctxs[i]? with
      | none => rw [hc] at hop; cases hop
      | some c => rw [hc] at hop; exact .inl ⟨c, op, rfl, hop, h⟩
    · cases h; exact .inr rfl

/-- What a step does. -/
theorem step_next {s t : State} (h : step s = .next t) :
    (∃ x rest, s.inputs = x :: rest ∧ present x { s with inputs := rest } = .next t) ∨
      (s.inputs = [] ∧ engineTurn s = .next t) := by
  unfold step at h
  split at h
  · exact .inl ⟨_, _, ‹_›, h⟩
  · exact .inr ⟨‹_›, h⟩

end Sys2Proof.Machine
end

