-- ==== Sys2Proof/Laws/PerInstr.lean ====
section
/-! SUPPORT. The family `Header`: what the first byte of an encoded operation says, for every constructor. -/

namespace Sys2Proof.Laws.Header

/-- The encoding of an operation begins with its identifier of R67 and R70 in bits 3..0. The composite has no identifier of
its own and begins with the nibble of `ISSUE` (R69); a frame has none and is not of format `OP` (R57). -/
def Statement (i : Instr) : Prop :=
  match i.opid with
  | some op => i.format = .op ∧ ∃ form rest, encode i = head form op :: rest
  | none => i.format ≠ .op ∨ ∃ form rest, encode i = head form 0x0 :: rest

theorem issue (i : Nat) (slave : Byte) (baddr : Word) (dptr : Nat) (dsize : Half) (tmo : Word) : Statement (.issue i slave baddr dptr dsize tmo) := ⟨rfl, 0, _, rfl⟩

theorem acquire (i : Nat) : Statement (.acquire i) := ⟨rfl, 0, _, rfl⟩

theorem build (i : Nat) : Statement (.build i) := ⟨rfl, 0, _, rfl⟩

theorem post (i : Nat) : Statement (.post i) := ⟨rfl, 0, _, rfl⟩

theorem wait (i : Nat) : Statement (.wait i) := ⟨rfl, 0, _, rfl⟩

theorem wake (i : Nat) : Statement (.wake i) := ⟨rfl, 0, _, rfl⟩

theorem validate (rsp : List Byte) (len : Half) : Statement (.validate rsp len) := ⟨rfl, 0, _, rfl⟩

theorem reportRsp (rsp : List Byte) (len : Half) : Statement (.reportRsp rsp len) := ⟨rfl, 0, _, rfl⟩

theorem reportExc (code : Exc) : Statement (.reportExc code) := ⟨rfl, 0, _, rfl⟩

theorem reportTmo : Statement .reportTmo := ⟨rfl, 0, _, rfl⟩

theorem release : Statement .release := ⟨rfl, 0, _, rfl⟩

theorem xacquire : Statement .xacquire := ⟨rfl, 0, _, rfl⟩

theorem xwrite (target : XTarget) : Statement (.xwrite target) := by
  cases target with
  | byte off b => exact ⟨rfl, 0, _, rfl⟩
  | txlen v => exact ⟨rfl, 1, _, rfl⟩
  | dest v => exact ⟨rfl, 2, _, rfl⟩

theorem xrelease : Statement .xrelease := ⟨rfl, 0, _, rfl⟩

theorem txread : Statement .txread := ⟨rfl, 0, _, rfl⟩

theorem reservedOpidF : Statement .reservedOpidF := ⟨rfl, 0, _, rfl⟩

theorem wbreq (i : Nat) (slave : Byte) (baddr : Word) (dptr : Nat) (dsize : Half) (tmo : Word) : Statement (.wbreq i slave baddr dptr dsize tmo) := .inr ⟨1, _, rfl⟩

theorem reqFrame (fc : Byte) (baddr : Word) (count : Half) (data : List Byte) : Statement (.reqFrame fc baddr count data) := by simp [Statement, Instr.opid, Instr.format]

theorem rspFrame (fc : Byte) (written : Half) : Statement (.rspFrame fc written) := by simp [Statement, Instr.opid, Instr.format]

end Sys2Proof.Laws.Header
end

