-- ==== Sys2Proof/Tests/Slice0.lean ====
section
/-! SUPPORT. Tests: ill-formed terms, words written out, one-step tests whose expected results are the vectors of
95_test_vectors.md, and for every obligation with hypotheses a witness that meets them. -/

namespace Sys2Proof.Tests

open Sys2Proof.Machine Sys2Proof.Safety Host

/-! ### Helpers -/

/-- Configuration CFG-A of 95_test_vectors.md, with a function code. -/
def cfgA : Config := { maxSlaves := 16, payloadCap := 64, fcWriteBlock := 0x64, txbufSize := 71, nctx := 2, ptrW := 16 }

/-- The call of V-BLD-5: slave 16, address 0x80000001, one byte. -/
def argB5 (tmo : Word) : Arg := { slave := 16, baddr := 0x80000001, dptr := 0xFFFF, dsize := 1, tmo := tmo }

/-- A context in a phase, with that call. -/
def ctxIn (p : Phase) (o : OutcomeReg) (tmo : Word) : Ctx := { Ctx.reset with phase := p, outcome := o, arg := argB5 tmo }

/-- The state before each test of the call entry (section 2.2): byte 0 is 0xEE, `TXLEN` 9, `DEST` 7. -/
def marked : State := { State.resetWith cfgA with txbuf := [(0, 0xEE)], txlen := 9, dest := 7, cdata := [(0xFFFF, 0x7F)] }

/-- Context 0 as given, the slot as given, nothing pending. -/
def withCtx (owner : Owner) (c : Ctx) : State := { marked with lockOwner := owner, ctxs := [c, Ctx.reset] }

/-- The same with the request of V-BLD-5 resident. -/
def built (c : Ctx) (reported valid : Bool) : State :=
  { withCtx (.ctx 0) c with
    lockReported := reported
    pendValid := valid
    pendCount := 1
    txbuf := [(0, 0x64), (1, 0x80), (2, 0), (3, 0), (4, 1), (5, 0), (6, 1), (7, 0x7F)]
    txlen := 7
    dest := 16 }

def sAcquiring (owner : Owner) (tmo : Word) : State := withCtx owner (ctxIn .acquiring .empty tmo)
def sSerializing : State := withCtx (.ctx 0) (ctxIn .serializing .empty 100)
def sLocked : State := built (ctxIn .locked .empty 100) false true
def sSent : State := built (ctxIn .sent .empty 100) false true
def sAwaiting : State := built (ctxIn .awaiting .empty 100) false true
def sOutcome (o : OutcomeReg) : State := built (ctxIn .awaiting o 100) true false
def sExt : State := withCtx .ext Ctx.reset
def sFaulted : State := { withCtx .none (ctxIn .faulted .empty 100) with fault := .capacity 0 }

/-- What follows, if a state follows. -/
def after : Out → Option State
  | .next t => some t
  | .fault _ => none
  | .refused _ => none

/-- A fact about the next state. -/
def gives (o : Out) (p : State → Bool) : Bool := (after o).any p

theorem next_of_gives {o : Out} {p : State → Bool} (h : gives o p = true) : ∃ t, o = .next t ∧ p t = true := by
  cases o <;> simp_all [gives, after]

/-- Context `i` in brief. -/
def brief (s : State) (i : Nat) : Option (Phase × OutcomeReg × ErrorCode × Bool) :=
  (s.ctxs[i]?).map fun c => (c.phase, c.outcome, c.result, c.resultValid)

/-! ### Ill-formed terms are refused (one for each check of WellFormed) -/

theorem test_illegal_context : ((Instr.acquire 2).legal cfgA, (Instr.acquire 1).legal cfgA) = (false, true) := by decide
theorem test_illegal_contexts : [Instr.issue 2 1 0 0 0 0, .build 2, .post 2, .wait 2, .wake 2, .wbreq 2 1 0 0 0 0].all
    (fun i => !i.legal cfgA) = true := by decide
theorem test_illegal_pointer : ((Instr.issue 0 1 0 0x10000 0 0).legal cfgA, (Instr.issue 0 1 0 0xFFFF 0 0).legal cfgA,
    (Instr.wbreq 0 1 0 0x10000 0 0).legal cfgA) = (false, true, false) := by decide
theorem test_illegal_offset : ((Instr.xwrite (.byte 71 0)).legal cfgA, (Instr.xwrite (.byte 70 0)).legal cfgA) =
    (false, true) := by decide
theorem test_illegal_count : ((Instr.reqFrame 0 0 2 [1]).legal cfgA, (Instr.reqFrame 0 0 1 [1]).legal cfgA) =
    (false, true) := by decide
theorem test_unfit_count : (Instr.reqFrame 0 0 1 []).fits = false ∧ (Instr.reqFrame 0 0 0 [1]).fits = false := by decide

/-! ### Words written out: the identifier in bits 3..0 of byte 0 (R67), the operands in R67's order; a field of a fixed width
in R39's byte order, a number of an OPEN width in seven bits a byte (log entry 4) -/

theorem test_decode_issue : decodeAll .op [0b00000000, 1, 3, 0, 0, 0x10, 0, 0x80, 63, 0, 16, 0, 0, 0, 100] =
    .ok (.issue 1 3 0x1000 0x2000 16 100) := by decide
theorem test_decode_acquire : decodeAll .op [0b00000001, 1] = .ok (.acquire 1) := by decide
theorem test_decode_build : decodeAll .op [0b00000010, 1] = .ok (.build 1) := by decide
theorem test_decode_post : decodeAll .op [0b00000011, 0x82, 1] = .ok (.post 0x102) := by decide
theorem test_decode_wait : decodeAll .op [0b00000100, 0] = .ok (.wait 0) := by decide
theorem test_decode_wake : decodeAll .op [0b00000101, 1] = .ok (.wake 1) := by decide
theorem test_decode_validate : decodeAll .op [0b00000110, 0, 3, 3, 0x64, 0, 0x10] = .ok (.validate [0x64, 0, 0x10] 3) := by decide
theorem test_decode_reportRsp : decodeAll .op [0b00000111, 0, 2, 2, 0x64, 0] = .ok (.reportRsp [0x64, 0] 2) := by decide
theorem test_decode_reportExc : decodeAll .op [0b00001000, 2] = .ok (.reportExc 2) := by decide
theorem test_decode_reportTmo : decodeAll .op [0b00001001] = .ok .reportTmo := by decide
theorem test_decode_release : decodeAll .op [0b00001010] = .ok .release := by decide
theorem test_decode_xacquire : decodeAll .op [0b00001011] = .ok .xacquire := by decide
theorem test_decode_xwrite_byte : decodeAll .op [0b00001100, 70, 3] = .ok (.xwrite (.byte 70 3)) := by decide
theorem test_decode_xwrite_txlen_dest : decodeAll .op [0b00011100, 1, 5] = .ok (.xwrite (.txlen 0x105)) ∧
    decodeAll .op [0b00101100, 9] = .ok (.xwrite (.dest 9)) := by decide
theorem test_decode_xrelease : decodeAll .op [0b00001101] = .ok .xrelease := by decide
theorem test_decode_txread : decodeAll .op [0b00001110] = .ok .txread := by decide
theorem test_decode_reserved : decodeAll .op [0b00001111] = .ok .reservedOpidF := by decide
theorem test_decode_wbreq : decodeAll .op [0b00010000, 0, 3, 0, 0, 0x10, 0, 0x80, 63, 0, 16, 255, 255, 255, 255] =
    .ok (.wbreq 0 3 0x1000 0x2000 16 0xFFFFFFFF) := by decide
/-- V-BLD-5's frame, R58, R62. -/
theorem test_decode_reqFrame : decodeAll .req [0x64, 0x80, 0, 0, 1, 0, 1, 0x7F] = .ok (.reqFrame 0x64 0x80000001 1 [0x7F]) := by
  decide
/-- The response of program P1, R59. -/
theorem test_decode_rspFrame : decodeAll .rsp [0x64, 0, 0x10] = .ok (.rspFrame 0x64 16) := by decide
/-- A response of another length is what `VALIDATE` gets (R64). -/
theorem test_decode_rsp_length : decodeAll .rsp [0x64, 0] = .ok (.validate [0x64, 0] 2) := by decide
theorem test_decode_rejects : decodeAll .op [] = .error .empty ∧ decodeAll .op [1, 0x80] = .error .truncated ∧
    decodeAll .op [0x11, 0] = .error .reservedForm ∧ decodeAll .op [9, 0] = .error .trailing ∧
    decodeAll .req [0x64, 0, 0, 0, 0, 0, 1] = .error .truncated := by decide
/-- A context, a pointer and an offset no fixed width would hold; V-VAL-12: `LEN` 65535 with no byte at all. -/
theorem test_decode_large : decodeAll .op [0b00000001, 0xA0, 0x8C, 5] = .ok (.acquire 100000) ∧
    decodeAll .op (encode (.issue 0 0 0 (2 ^ 64) 0 0)) = .ok (.issue 0 0 0 (2 ^ 64) 0 0) ∧
    decodeAll .op (encode (.xwrite (.byte (2 ^ 32) 9))) = .ok (.xwrite (.byte (2 ^ 32) 9)) ∧
    decodeAll .op [0b00000110, 255, 255, 0] = .ok (.validate [] 65535) := by decide
theorem test_table_words : decodeTableWord 8 0x9 = some .reportTmo ∧ decodeTableWord 8 0xB = some .xacquire ∧
    decodeTableWord 8 0xD = some .xrelease ∧ decodeTableWord 24 0x080064 = some (.rspFrame 0x64 8) := by decide

/-! ### One step (95_test_vectors.md) -/

/-- V-BE-1 to V-BE-6. -/
theorem test_byte_order : be32 0x12345678 = [0x12, 0x34, 0x56, 0x78] ∧ be16 0x00FF = [0, 0xFF] ∧
    be32 0x000000FF = [0, 0, 0, 0xFF] ∧ be16 0x0100 = [1, 0] ∧ ube16 0x10 0x00 = 4096 ∧ ube16 0x00 0x10 = 16 := by decide

/-- V-ARG-4 and V-ARG-6: the slave is checked first; nothing shared changes. -/
theorem test_issue_argument : gives (exec (.issue 0 17 0x10 0x100 65 100) marked) (fun t =>
    brief t 0 = some (.idle, .empty, .illegalArgument, true) ∧ t.out = .returned .illegalArgument ∧ t.fault = .none ∧
      t.txlen = 9 ∧ t.dest = 7) = true := by decide
/-- V-CAP-2, V-CAP-4, V-CAP-5. -/
theorem test_issue_capacity : gives (exec (.issue 0 3 0x10 0x100 65 100) marked) (fun t => t.fault = .capacity 0 ∧
      brief t 0 = some (.faulted, .empty, .noError, false)) = true ∧
    gives (exec (.issue 0 3 0x10 0xFFF0 16 100) marked) (fun t => t.out = .accepted) = true ∧
    gives (exec (.issue 0 3 0x10 0xFFF1 16 100) marked) (fun t => t.fault = .pointer 0) = true := by decide
/-- V-ARG-3, and what the composite adds (R94). -/
theorem test_wbreq_accepted : gives (exec (.wbreq 1 16 0x10 0x100 4 100) marked) (fun t => t.out = .accepted ∧
    (t.ctxs[1]?).map (·.arg) = some ⟨16, 0x10, 0x100, 4, 100⟩ ∧ t.calls = [1]) = true := by decide
/-- V-ACQ-1, V-ACQ-3. -/
theorem test_acquire : gives (exec (.acquire 0) (sAcquiring .none 100)) (fun t => t.lockOwner = .ctx 0 ∧ t.out = .ok ∧
      brief t 0 = some (.serializing, .empty, .noError, false)) = true ∧
    gives (exec (.acquire 0) (sAcquiring (.ctx 1) 0xFFFFFFFF)) (fun t => t.out = .blocked) = true := by decide
/-- V-BLD-5. -/
theorem test_build : gives (exec (.build 0) sSerializing) (fun t =>
    readBytes t.txByte 0 8 = [0x64, 0x80, 0, 0, 1, 0, 1, 0x7F] ∧ t.txlen = 7 ∧ t.dest = 16 ∧ t.pendValid ∧ t.pendCount = 1 ∧
      brief t 0 = some (.locked, .empty, .noError, false)) = true := by decide
/-- V-EVT-1, V-EVT-3. -/
theorem test_post : gives (exec (.post 0) sLocked) (fun t => t.evlog = [.txEvent 0] ∧
      brief t 0 = some (.sent, .empty, .noError, false)) = true ∧
    gives (exec (.post 0) sSent) (fun t => t.out = .refused ∧ t.evlog = []) = true := by decide
/-- V-CMP-13 and the step before it. -/
theorem test_wait : gives (exec (.wait 0) sSent) (fun t => brief t 0 = some (.awaiting, .empty, .noError, false)) = true ∧
    gives (exec (.wait 0) sLocked) (fun t => t.out = .refused) = true := by decide
/-- V-CMP-5, the end: the slot is still held. -/
theorem test_wake : gives (exec (.wake 0) (sOutcome .timeout)) (fun t =>
    brief t 0 = some (.idle, .empty, .timeout, true) ∧ t.lockOwner = .ctx 0 ∧ t.out = .returned .timeout) = true := by decide
/-- V-CMP-3. -/
theorem test_wake_blocked : gives (exec (.wake 0) sAwaiting) (fun t => t.out = .blocked) = true := by decide
/-- V-VAL-1, V-VAL-2, V-VAL-3, V-VAL-5, V-VAL-14, with count 1. -/
theorem test_validate : [gives (exec (.validate [0x64, 0, 1] 3) sSent) (fun t => t.out = .verdict 0x00),
    gives (exec (.validate [0x64, 0, 8] 3) sSent) (fun t => t.out = .verdict 0x03),
    gives (exec (.validate [0x64, 0] 2) sSent) (fun t => t.out = .verdict 0x03),
    gives (exec (.validate [0x64, 1, 0] 3) sSent) (fun t => t.out = .verdict 0x03),
    gives (exec (.validate [0x64, 0, 1] 3) (sOutcome .timeout)) (fun t => t.out = .verdict 0x03)] =
    [true, true, true, true, true] := by decide
/-- V-VAL-12 as a step: no byte need be there when the length is wrong. -/
theorem test_validate_no_bytes : gives (step { sSent with inputs := [.op [0b00000110, 255, 255, 0]] }) (fun t => t.out = .verdict 0x03) =
    true := by decide
/-- V-CMP-2: a report before the wait is latched. -/
theorem test_reportRsp : gives (exec (.reportRsp [0x64, 0, 1] 3) sSent) (fun t =>
    brief t 0 = some (.sent, .success, .noError, false) ∧ t.lockReported ∧ !t.pendValid ∧ t.pendCount = 1) = true := by decide
/-- V-CMP-10. -/
theorem test_reportRsp_discarded : gives (exec (.reportRsp [0x64, 0, 1] 3) sLocked) (fun t =>
    t.evlog = [.discarded .rsp] ∧ t.out = .discarded (some 0x00) ∧ t.pendValid) = true := by decide
/-- V-CMP-6, V-CMP-7. -/
theorem test_reportExc : gives (exec (.reportExc 2) sAwaiting) (fun t =>
      brief t 0 = some (.awaiting, .protocolException, .noError, false)) = true ∧
    gives (exec (.reportExc 0) sAwaiting) (fun t => t.evlog = [.discarded .exc] ∧ !t.lockReported) = true := by decide
/-- V-CMP-5, V-CMP-9. -/
theorem test_reportTmo : gives (exec .reportTmo sAwaiting) (fun t =>
      brief t 0 = some (.awaiting, .timeout, .noError, false) ∧ t.lockReported) = true ∧
    gives (exec .reportTmo (sOutcome .success)) (fun t => t.evlog = [.discarded .tmo] ∧
      brief t 0 = some (.awaiting, .success, .noError, false)) = true := by decide
/-- V-REL-1, V-REL-2. -/
theorem test_release : gives (exec .release sAwaiting) (fun t => t.out = .refused ∧ t.lockOwner = .ctx 0) = true ∧
    gives (exec .release (sOutcome .success)) (fun t => t.lockOwner = .none ∧ !t.lockReported) = true := by decide
/-- V-EXT-1, V-EXT-2. -/
theorem test_xacquire : gives (exec .xacquire marked) (fun t => t.lockOwner = .ext) = true ∧
    gives (exec .xacquire sLocked) (fun t => t.out = .refused ∧ t.lockOwner = .ctx 0) = true := by decide
/-- V-EXT-3. -/
theorem test_xwrite : gives (exec (.xwrite (.byte 0 3)) sExt) (fun t => t.txByte 0 = 3 ∧ t.txlen = 9) = true ∧
    gives (exec (.xwrite (.txlen 5)) sExt) (fun t => t.txlen = 5 ∧ t.txByte 0 = 0xEE ∧ t.dest = 7) = true := by decide
/-- V-EXT-4. -/
theorem test_xwrite_refused : gives (exec (.xwrite (.byte 0 3)) sLocked) (fun t => t.out = .refused ∧ t.txByte 0 = 0x64) =
    true := by decide
/-- V-EXT-5. -/
theorem test_xrelease : gives (exec .xrelease sExt) (fun t => t.lockOwner = .none) = true := by decide
/-- V-EVT-4, with V-BLD-5's frame. -/
theorem test_txread : gives (exec .txread sSent) (fun t =>
    match t.out with
    | .frame d n l => decide (d = 16 ∧ n = 7 ∧ l.take 8 = [0x64, 0x80, 0, 0, 1, 0, 1, 0x7F])
    | _ => false) = true := by decide
/-- R62: the frame of V-BLD-5 is resident, another one is not. -/
theorem test_reqFrame : gives (exec (.reqFrame 0x64 0x80000001 1 [0x7F]) sSent) (fun t => t.out = .resident true) = true ∧
    gives (exec (.reqFrame 0x64 0x80000001 1 [0x7E]) sSent) (fun t => t.out = .resident false) = true := by decide
/-- V-VAL-1, V-VAL-5 on a frame. -/
theorem test_rspFrame : gives (exec (.rspFrame 0x64 1) sSent) (fun t => t.out = .verdict 0x00) = true ∧
    gives (exec (.rspFrame 0x64 0x100) sSent) (fun t => t.out = .verdict 0x03) = true := by decide
/-- U10. -/
theorem test_reserved : step { marked with inputs := [.op [0x0F]] } = .refused .reservedOpid := by rfl

/-! ### Witnesses: for each obligation with hypotheses, states and operands that meet them, clause by clause -/

/-- A fact about the registers of context 0. -/
def at0 (s : State) (p : Ctx → Bool) : Bool := (s.ctxs[0]?).any p

/-- One operation or frame of each constructor and form, its operands at the ends of their ranges. -/
def boundary : List Instr :=
  [.issue 0 0 0 0 0 0, .issue (2 ^ 70) 255 0xFFFFFFFF (2 ^ 70) 65535 0xFFFFFFFF, .acquire 65535, .build 0, .post 65535,
    .wait 0, .wake 65535, .validate [] 65535, .validate [1, 2, 3] 3, .reportRsp [255] 0, .reportExc 255, .reportTmo] ++
  [.release, .xacquire, .xwrite (.byte (2 ^ 40) 255), .xwrite (.txlen 65535), .xwrite (.dest 255), .xrelease, .txread,
    .reservedOpidF, .wbreq 65535 255 0 0 0 0, .reqFrame 255 0 0 [], .reqFrame 0 0 2 [1, 2], .rspFrame 255 65535]

theorem witness_DecodeEncodeAgree : boundary.all (·.fits) = true := by decide

theorem witness_DecodedBytesReencode : (Format.op ≠ .rsp ∧ decodeAll .op [1, 255, 254, 2] = .ok (.acquire 65535)) ∧
    (Format.req ≠ .rsp ∧ decodeAll .req [0, 0, 0, 0, 0, 0, 0] = .ok (.reqFrame 0 0 0 [])) := by decide

theorem witness_DecodedIsWellFormed : decodeAll .op [1, 0] = .ok (.acquire 0) ∧
    decodeAll .req [0, 0, 0, 0, 0, 0, 0] = .ok (.reqFrame 0 0 0 []) ∧ decodeAll .rsp [] = .ok (.validate [] 0) ∧
    decodeAll .rsp [1, 0, 2] = .ok (.rspFrame 1 2) ∧ decodeAll .rsp [1, 2] = .ok (.validate [1, 2] 2) := by decide

theorem witness_StatusCodesAreDistinct : Phase.idle.code = Phase.idle.code ∧ (∀ i, Owner.ctx 1 = .ctx i → i < cfgA.nctx) ∧
    Owner.code (.ctx 1) < 2 ^ Owner.width cfgA := by
  refine ⟨rfl, ?_, by decide⟩
  intro i h
  cases h
  decide

/-- The arms at the ends of their ranges: slave 0, 17, 1, 16; size 65, 64; a range ending above and at `2^PTR_W`; size 0. -/
theorem witness_IssueArms : at0 sSent (fun c => c.phase ≠ .idle) = true ∧ at0 marked (fun c => c.phase = .idle) = true ∧
    ¬ (1 ≤ (0 : Byte).toNat ∧ (0 : Byte).toNat ≤ marked.cfg.maxSlaves) ∧
    ¬ (1 ≤ (17 : Byte).toNat ∧ (17 : Byte).toNat ≤ marked.cfg.maxSlaves) ∧
    (1 ≤ (16 : Byte).toNat ∧ (16 : Byte).toNat ≤ marked.cfg.maxSlaves ∧ marked.cfg.payloadCap < (65 : Half).toNat) ∧
    ((64 : Half).toNat ≤ marked.cfg.payloadCap ∧ 0 < (64 : Half).toNat ∧ 2 ^ marked.cfg.ptrW < 0xFFC1 + (64 : Half).toNat) ∧
    0xFFC0 + (64 : Half).toNat ≤ 2 ^ marked.cfg.ptrW ∧ (0 : Half).toNat = 0 := by decide

/-- Every context, and the accepted entry at its limits. -/
theorem witness_WbreqEntersAsIssue : at0 sSent (fun _ => true) = true ∧ at0 marked (fun c => c.phase = .idle) = true ∧
    (1 ≤ (1 : Byte).toNat ∧ (16 : Byte).toNat ≤ marked.cfg.maxSlaves) ∧ (64 : Half).toNat ≤ marked.cfg.payloadCap ∧
    0xFFC0 + (64 : Half).toNat ≤ 2 ^ marked.cfg.ptrW ∧ (0 : Half).toNat = 0 := by decide

/-- A composite call that was accepted, with the slot free. -/
def sCall : State := { sAcquiring .none 0 with calls := [0] }

theorem witness_WbreqRunsToTheWait : Invariant sCall ∧ sCall.inputs = [] ∧ sCall.calls = [0] ∧
    at0 sCall (fun c => c.phase = .acquiring) = true ∧ sCall.lockOwner = .none :=
  ⟨invariant_of_meets (by decide), by decide⟩

/-- The same call with its outcome latched. -/
def sCallDone (o : OutcomeReg) : State := { sOutcome o with calls := [0] }

theorem witness_WbreqReturnsTheOutcome : ∀ o ∈ [OutcomeReg.success, .protocolException, .timeout],
    (sCallDone o).inputs = [] ∧ (sCallDone o).calls = 0 :: [] ∧
      at0 (sCallDone o) (fun c => c.phase = .awaiting ∧ (translateOutcome c.outcome).isSome) = true := by decide

/-- The five clauses, the finite timeouts at 0 and at the largest finite value. -/
theorem witness_AcquireArms : at0 marked (fun c => c.phase ≠ .acquiring) = true ∧
    (at0 (sAcquiring .none 0) (fun c => c.phase = .acquiring) = true ∧ (sAcquiring .none 0).lockOwner = .none) ∧
    (at0 (sAcquiring (.ctx 0) 0xFFFFFFFF) (fun c => c.phase = .acquiring ∧ c.arg.tmo = cfgA.infiniteWait) = true ∧
      (sAcquiring (.ctx 0) 0xFFFFFFFF).lockOwner ≠ .none) ∧
    [(0 : Word), 0xFFFFFFFE].all (fun tmo => at0 (sAcquiring .ext tmo) (fun c => c.phase = .acquiring ∧
      c.arg.tmo ≠ cfgA.infiniteWait) && decide ((sAcquiring .ext tmo).lockOwner ≠ .none)) = true := by decide

theorem witness_ReleaseFreesReportedSlot : ((sOutcome .success).lockOwner = .ctx 0 ∧ (sOutcome .success).lockReported = true) ∧
    (∀ i, sExt.lockOwner ≠ .ctx i) ∧ sSent.lockReported = false := ⟨by decide, (fun _ h => by cases h), by decide⟩

theorem witness_XacquireTakesFreeSlot : marked.lockOwner = .none ∧ sExt.lockOwner ≠ .none ∧ sSent.lockOwner ≠ .none := by decide

theorem witness_XwriteTargets : (sExt.lockOwner = .ext ∧ 0 < sExt.cfg.txbufSize ∧ 70 < sExt.cfg.txbufSize) ∧
    sSent.lockOwner ≠ .ext ∧ marked.lockOwner ≠ .ext := by decide

theorem witness_XreleaseFreesExternalSlot : sExt.lockOwner = .ext ∧ sSent.lockOwner ≠ .ext ∧ marked.lockOwner ≠ .ext := by decide

/-- A call about to be built with a payload of this size at this address. -/
def sSize (dptr : Nat) (dsize : Half) : State :=
  withCtx (.ctx 0) { ctxIn .serializing .empty 100 with arg := { argB5 100 with dptr := dptr, dsize := dsize } }

/-- The smallest and the largest payload, the largest ending at the last address. -/
theorem witness_BuildWritesRequest : at0 sSent (fun c => c.phase ≠ .serializing) = true ∧ cfgA.Legal ∧
    at0 (sSize 0xFFFF 0) (fun c => c.phase = .serializing ∧ c.arg.dsize.toNat = 0) = true ∧
    at0 (sSize 0xFFC0 64) (fun c => c.phase = .serializing ∧ c.arg.dsize.toNat ≤ cfgA.payloadCap ∧
      c.arg.dptr + c.arg.dsize.toNat ≤ 2 ^ cfgA.ptrW) = true := by decide

theorem witness_BuildKeepsTheTail : at0 sSerializing (fun c => (requestBytes sSerializing c.arg).length ≤ 8) = true ∧
    gives (exec (.build 0) sSerializing) (fun _ => true) = true := by decide

theorem witness_BuiltRequestDecodes : at0 sSerializing (fun c => c.phase = .serializing) = true ∧ sSerializing.cfg.reqLenBase = 6 ∧
    gives (exec (.build 0) sSerializing) (fun _ => true) = true ∧ gives (exec (.build 0) (sSize 0 0)) (fun _ => true) = true := by
  decide

theorem witness_PostEmitsOneEvent : at0 sLocked (fun c => c.phase = .locked) = true ∧ at0 sSent (fun c => c.phase ≠ .locked) = true := by
  decide

theorem witness_TxreadGivesResidentFrame : 0 < sSent.cfg.txbufSize ∧ 70 < sSent.cfg.txbufSize := by decide

/-- After V-BLD-5: post, wait, report, wake, release (V-EVT-6). -/
theorem witness_TransmitStateSurvives :
    let ops : List Instr := [.post 0, .wait 0, .reportRsp [0x64, 0, 1] 3, .wake 0, .release]
    (∀ i ∈ ops, (∀ k, i ≠ .build k) ∧ (∀ x, i ≠ .xwrite x)) ∧ (runOps ops sLocked).isSome = true := by
  refine ⟨?_, by decide⟩
  intro i hi
  simp only [List.mem_cons, List.not_mem_nil, or_false] at hi
  rcases hi with rfl | rfl | rfl | rfl | rfl <;> simp

theorem witness_WaitEntersTheWait : at0 sSent (fun c => c.phase = .sent) = true ∧ at0 sLocked (fun c => c.phase ≠ .sent) = true := by
  decide

theorem witness_WakeReturnsOutcome : (∀ o ∈ [OutcomeReg.success, .protocolException, .timeout],
      at0 (sOutcome o) (fun c => c.phase = .awaiting ∧ c.outcome = o) = true) ∧
    at0 sAwaiting (fun c => c.phase = .awaiting ∧ c.outcome = .empty) = true ∧ at0 sSent (fun c => c.phase ≠ .awaiting) = true := by
  decide

/-- Lengths 0, 2, 4 and 65535; nothing pending; length 3 with the counts equal and not. -/
theorem witness_ValidateVerdict : cfgA.pduSizeMin = 1 ∧ (0 : Half) ≠ 3 ∧ (2 : Half) ≠ 3 ∧ (4 : Half) ≠ 3 ∧ (65535 : Half) ≠ 3 ∧
    (sOutcome .timeout).pendValid = false ∧ sSent.pendValid = true ∧ [(0 : Byte), 0, 1] = 0 :: 0 :: 1 :: [] ∧
    ube16 0 1 = sSent.pendCount ∧ ube16 0 2 ≠ sSent.pendCount := by decide

theorem accepts_sAwaiting : Accepts sAwaiting 0 := ⟨rfl, rfl, ctxIn .awaiting .empty 100, rfl, .inr rfl⟩
theorem accepts_sSent : Accepts sSent 0 := ⟨rfl, rfl, ctxIn .sent .empty 100, rfl, .inl rfl⟩
theorem not_accepts_sExt : ∀ i, ¬ Accepts sExt i := fun _ h => by cases h.1
theorem not_accepts_reported : ∀ i, ¬ Accepts (sOutcome .success) i := fun _ h => by cases h.2.1

theorem witness_ReportRspArms : sAwaiting.cfg.pduSizeMin = 1 ∧ 3 ≤ [(0 : Byte), 0, 1].length ∧
    (Accepts sAwaiting 0 ∧ at0 sAwaiting (fun _ => true) = true) ∧ Accepts sSent 0 ∧ (∀ i, ¬ Accepts (sOutcome .success) i) :=
  ⟨by decide, by decide, ⟨accepts_sAwaiting, by decide⟩, accepts_sSent, not_accepts_reported⟩

theorem witness_ReportExcArms : (Accepts sAwaiting 0 ∧ at0 sAwaiting (fun _ => true) = true ∧ (1 : Exc) ≠ 0x00) ∧
    (∀ i, ¬ Accepts sExt i) := ⟨⟨accepts_sAwaiting, by decide⟩, not_accepts_sExt⟩

theorem witness_ReportTmoArms : (Accepts sSent 0 ∧ at0 sSent (fun _ => true) = true) ∧ (∀ i, ¬ Accepts sExt i) :=
  ⟨⟨accepts_sSent, by decide⟩, not_accepts_sExt⟩

theorem witness_FirstReportWins :
    let ops : List Instr := [.reportTmo, .wake 0, .release]
    (sOutcome .success).lockReported = true ∧ (∀ i ∈ ops, ∀ k, i ≠ .acquire k) ∧ (runOps ops (sOutcome .success)).isSome = true ∧
      (runOps ops (sOutcome .success)).any (fun t => gives (exec .reportTmo t) (fun _ => true)) = true := by
  refine ⟨by decide, ?_, by decide, by decide⟩
  intro i hi
  simp only [List.mem_cons, List.not_mem_nil, or_false] at hi
  rcases hi with rfl | rfl | rfl <;> simp

theorem witness_RspFrameIsParsed : sSent.cfg.pduSizeMin = 1 := by decide

theorem witness_ReqFrameIsCheckedAgainstTheBuffer : at0 sSerializing (fun c => c.phase = .serializing) = true ∧
    gives (exec (.build 0) sSerializing) (fun _ => true) = true := by decide

/-- What is presented, first in the list. -/
def presenting (x : Input) (s : State) : State := { s with inputs := [x] }

theorem witness_StepRunsPresentedInstruction :
    (presenting (.op [3, 0]) sLocked).inputs = inputOf .op [3, 0] :: [] ∧ decodeAll .op [3, 0] = .ok (.post 0) ∧
      (Instr.post 0).legal sLocked.cfg = true ∧ decodeAll .rsp [1, 0, 1] = .ok (.rspFrame 1 1) ∧
      (Instr.rspFrame 1 1).legal sLocked.cfg = true := by decide

theorem witness_StepRefusesMalformedInput :
    (presenting (.op [0x31]) sLocked).inputs = inputOf .op [0x31] :: [] ∧ decodeAll .op [0x31] = .error .reservedForm ∧
      decodeAll .op [3, 2] = .ok (.post 2) ∧ (Instr.post 2).legal sLocked.cfg = false := by decide

theorem witness_EncodedInstructionIsRun : [Instr.issue 1 0 0 0xFFFF 65535 0, .acquire 0, .build 1, .post 1, .wait 0, .wake 1,
    .validate [] 3, .reportRsp [1] 65535, .reportExc 0, .xwrite (.byte 70 0), .wbreq 0 0 0 0 0 0, .reqFrame 0 0 0 [],
    .rspFrame 0 0].all (·.legal cfgA) = true ∧
    (Instr.issue 100000 0 0 (2 ^ 64) 0 0).legal { cfgA with nctx := 100001, ptrW := 65 } = true := by decide

theorem witness_EngineMovesWhenNothingIsPresented : (marked.inputs = [] ∧ marked.calls = []) ∧
    sCall.inputs = [] ∧ sCall.calls = 0 :: [] ∧ at0 sCall (fun c => engineOp 0 c.phase = some (.acquire 0)) = true := by decide

theorem witness_ResetInputResets : (presenting .reset sFaulted).inputs = .reset :: [] := by decide

/-- The last address of `CDATA`, held by a call and not. -/
theorem witness_CallerWriteChangesOneByte : (presenting (.cdata 0xFFFF 1) sSerializing).inputs = .cdata 0xFFFF 1 :: [] ∧
    0xFFFF < 2 ^ cfgA.ptrW ∧
    at0 sSerializing (fun c => c.phase = .serializing ∧ c.arg.dptr ≤ 0xFFFF ∧ 0xFFFF < c.arg.dptr + c.arg.dsize.toNat) = true ∧
    (∀ c ∈ sSent.ctxs, c.phase = .acquiring ∨ c.phase = .serializing →
      ¬ (c.arg.dptr ≤ 0xFFFF ∧ 0xFFFF < c.arg.dptr + c.arg.dsize.toNat)) ∧
    (∀ c ∈ sSerializing.ctxs, c.phase = .acquiring ∨ c.phase = .serializing →
      ¬ (c.arg.dptr ≤ 0xFFFE ∧ 0xFFFE < c.arg.dptr + c.arg.dsize.toNat)) := by decide

theorem witness_ResetValues : 1 < cfgA.nctx := by decide

/-- The smallest legal configuration, and the largest payload and slave. -/
theorem witness_ResetMeetsInv :
    (Config.mk 1 0 0 1 6 7 1 0xFFFFFFFF 1).Legal ∧ (Config.mk 255 65528 0 1 6 65535 1 0xFFFFFFFF 32).Legal := by decide

theorem invariant_sSent : Invariant sSent := invariant_of_meets (by decide)
theorem invariant_sAwaiting : Invariant sAwaiting := invariant_of_meets (by decide)
theorem invariant_sSerializing : Invariant sSerializing := invariant_of_meets (by decide)
theorem invariant_sExt : Invariant sExt := invariant_of_meets (by decide)
theorem invariant_sReported : Invariant (sOutcome .success) := invariant_of_meets (by decide)

/-- A step of the engine, and a presented one. -/
theorem witness_StepKeepsInv : (Invariant sCall ∧ gives (step sCall) (fun _ => true) = true) ∧
    (Invariant (presenting (.op [0xA]) (sOutcome .success)) ∧
      gives (step (presenting (.op [0xA]) (sOutcome .success))) (fun _ => true) = true) :=
  ⟨⟨invariant_of_meets (by decide), by decide⟩, invariant_of_meets (by decide), by decide⟩

theorem witness_LegalOperationsComplete : (Invariant sSerializing ∧ (Instr.build 0).legal sSerializing.cfg = true ∧
      (Instr.build 0) ≠ .reservedOpidF) ∧
    (Invariant sSent ∧ (Instr.validate [1, 2, 3] 3).legal sSent.cfg = true ∧ sSent.pendValid = true ∧
      3 ≤ [(1 : Byte), 2, 3].length) :=
  ⟨⟨invariant_sSerializing, by decide, by decide⟩, invariant_sSent, by decide, by decide, by decide⟩

theorem witness_AtMostOneInFlight : Invariant sSent ∧ at0 sSent (fun c => InFlight c) = true := ⟨invariant_sSent, by decide⟩

theorem witness_RetainedCountEqualsBufferCount : Invariant sAwaiting ∧ sAwaiting.pendValid = true := ⟨invariant_sAwaiting, by decide⟩

theorem witness_AcceptanceIsUnambiguous : Invariant sSent ∧ Accepts sSent 0 ∧ at0 sSent (fun _ => true) = true :=
  ⟨invariant_sSent, accepts_sSent, by decide⟩

theorem witness_SingleWriterOfTransmitState :
    (Invariant sSerializing ∧ gives (exec (.build 0) sSerializing) (fun t => ¬ SameTx sSerializing t) = true) ∧
    (Invariant sExt ∧ gives (exec (.xwrite (.byte 70 1)) sExt) (fun t => ¬ SameTx sExt t) = true) :=
  ⟨⟨invariant_sSerializing, by decide⟩, invariant_sExt, by decide⟩

/-- Whether an operation changes `STATE[0]`. -/
def moves (i : Instr) (s : State) : Bool := gives (exec i s) fun t => (brief s 0).map (·.1) ≠ (brief t 0).map (·.1)

/-- Each row of R95 but `MasterBusy`, whose choice is free. -/
theorem witness_TransitionTable : [moves (.issue 0 16 0 0 64 0) marked, moves (.issue 0 1 0 0 65 0) marked,
    moves (.wbreq 0 1 0 0xFFFF 2 0) marked, moves (.acquire 0) (sAcquiring .none 0), moves (.build 0) sSerializing,
    moves (.post 0) sLocked, moves (.wait 0) sSent, moves (.wake 0) (sOutcome .success)].all id = true := by decide

theorem witness_PrivateRegistersStayPrivate : at0 sAwaiting (fun _ => true) = true ∧
    gives (exec .reportTmo sAwaiting) (fun t => t.ctxs ≠ sAwaiting.ctxs) = true ∧
    gives (exec (.issue 1 16 0 0 0 0) marked) (fun t => t.ctxs[0]? = marked.ctxs[0]?) = true := by decide

/-- V-CAP-6: a second fault in context 1 after context 0's. -/
theorem witness_FaultIsSticky : gives (exec (.issue 0 16 0 0 65 0) marked) (fun t => t.fault ≠ marked.fault) = true ∧
    (let s := presenting (.op (encode (.issue 1 3 0x10 0xFFF1 16 100))) sFaulted
     gives (step s) (fun t => t.fault = .capacity 0) = true ∧ s.inputs.head? ≠ some .reset ∧ s.fault ≠ .none ∧
       at0 s (fun c => c.phase = .faulted) = true) := by decide

theorem witness_ParametersAreFixed : gives (step (presenting .reset sSent)) (fun _ => true) = true ∧
    gives (step sCall) (fun _ => true) = true := by decide

theorem witness_EventLogOnlyGrows : [gives (exec (.post 0) sLocked) (fun _ => true), gives (exec (.reportRsp [] 0) sExt) (fun _ => true),
    gives (exec (.reportExc 0) sExt) (fun _ => true), gives (exec .reportTmo sExt) (fun _ => true)].all id = true := by decide

/-- One operation of each agent (R16, R67). -/
theorem witness_AgentsKeepToTheirRights : (Invariant sExt ∧ Invariant (sOutcome .success)) ∧
    [gives (exec (.issue 0 1 0 0 0 0) sExt) (fun _ => initiator (.issue 0 1 0 0 0 0) = some .caller),
      gives (exec (.wake 0) (sOutcome .success)) (fun _ => initiator (.wake 0) = some .engine),
      gives (exec .txread sExt) (fun _ => initiator .txread = some .dispatcher),
      gives (exec .release (sOutcome .success)) (fun _ => initiator .release = some .completionPath),
      gives (exec .xrelease sExt) (fun _ => initiator .xrelease = some .otherRequester)].all id = true :=
  ⟨⟨invariant_sExt, invariant_sReported⟩, by decide⟩

theorem witness_ErrorReturnsArePrecise : gives (exec (.issue 0 0 0 0 0 0) marked) (fun t => t.out = .returned .illegalArgument) = true ∧
    gives (exec (.wake 0) (sOutcome .success)) (fun t => t.out = .returned .noError) = true ∧
    gives (exec (.wake 0) (sOutcome .timeout)) (fun t => t.out = .returned .timeout) = true ∧
    gives (exec (.wake 0) (sOutcome .protocolException)) (fun t => t.out = .returned .protocolException) = true := by decide

theorem witness_RefusedOrBlockedChangesNothing : gives (exec (.post 0) sSent) (fun t => t.out = .refused) = true ∧
    gives (exec (.wake 0) sAwaiting) (fun t => t.out = .blocked) = true := by decide

/-- Blocked in both places, not blocked in each phase, at rest with nothing presented, and at rest with a stray report
presented; a call presented is no rest. -/
theorem witness_BlockedAndAtRest :
    (Invariant sAwaiting ∧ at0 sAwaiting (fun c => engineOp 0 c.phase = some (.wake 0)) = true ∧
      Blocked sAwaiting (ctxIn .awaiting .empty 100)) ∧
    (Invariant (sAcquiring .ext 0xFFFFFFFF) ∧ Blocked (sAcquiring .ext 0xFFFFFFFF) (ctxIn .acquiring .empty 0xFFFFFFFF)) ∧
    (Invariant sSent ∧ ¬ Blocked sSent (ctxIn .sent .empty 100)) ∧ (AtRest marked ∧ marked.inputs = []) ∧
    (AtRest (presenting (.op [9]) marked) ∧ gives (step (presenting (.op [9]) marked)) (fun t => t.evlog = [.discarded .tmo]) = true) ∧
    ¬ AtRest (presenting (.op (encode (.issue 0 3 0x10 0x100 4 100))) marked) := by
  refine ⟨⟨invariant_sAwaiting, by decide, .inr ⟨rfl, rfl⟩⟩, ⟨invariant_of_meets (by decide), .inl ⟨rfl, by decide, rfl⟩⟩,
    ⟨invariant_sSent, ?_⟩, ⟨⟨by decide, rfl, by decide, rfl, rfl⟩, rfl⟩, ⟨⟨by decide, rfl, by decide, rfl, rfl⟩, by decide⟩, ?_⟩
  · rintro (⟨h, -⟩ | ⟨h, -⟩) <;> cases h
  · rintro ⟨-, -, h, -⟩
    exact absurd (h _ List.mem_cons_self) (by decide)

theorem witness_IdentifierIsTheLowNibble : (Instr.acquire 1).opid = some 0x1 ∧ decodeAll .op [1, 1] = .ok (.acquire 1) ∧
    decodeAll .op (encode (.wbreq 1 2 3 4 5 6)) = .ok (.wbreq 1 2 3 4 5 6) := by decide

theorem witness_ResponseWithoutItsBytesFaults : sSent.cfg.pduSizeMin = 1 ∧ sSent.pendValid = true ∧
    ([] : List Byte).length < 3 ∧ [(1 : Byte), 2].length < 3 := by decide

end Sys2Proof.Tests
end

/-! ## The invariant, taken apart: the shared clauses and the clauses on one context -/
section

namespace Sys2Proof.Safety

open Sys2Proof.Machine

/-- The clauses of `Invariant` that speak of the registers of one context. -/
structure ContextInv (s : State) (i : Nat) (c : Ctx) : Prop where
  inFlightOwns : InFlight c → s.lockOwner = .ctx i ∧ s.lockReported = false
  builtIsPending : (c.phase = .locked ∨ c.phase = .sent ∨ c.phase = .awaiting) → c.outcome = .empty → s.pendValid = true
  latchedIsReported : s.lockOwner = .ctx i → c.outcome ≠ .empty → s.lockReported = true
  outcomeMeans : c.outcome ≠ .empty → c.phase = .sent ∨ c.phase = .awaiting
  validMeans : c.resultValid = true → c.phase = .idle
  faultedMeans : c.phase = .faulted → s.fault ≠ .none
  pointerFits : c.arg.dptr < 2 ^ s.cfg.ptrW
  argsChecked : c.phase ≠ .idle → c.phase ≠ .faulted →
    argchk s.cfg c.arg.slave = true ∧ capchk s.cfg c.arg.dptr c.arg.dsize = .ok

/-- A pending request is the request of this context, which owns the slot unreported and waits with its outcome open (I-3). -/
structure PendingFor (s : State) (c : Ctx) : Prop where
  phase : c.phase = .locked ∨ c.phase = .sent ∨ c.phase = .awaiting
  unreported : s.lockReported = false
  outcome : c.outcome = .empty
  count : s.pendCount = c.arg.dsize
  bytes : readBytes s.txByte 5 2 = be16 s.pendCount

/-- A call of this context is in progress, as `callsRunning` has it. -/
abbrev Running (c : Ctx) : Prop := c.phase ≠ .idle ∧ c.phase ≠ .faulted

/-- The other clauses of `Invariant`. -/
structure SharedInv (s : State) : Prop where
  cfgLegal : s.cfg.Legal
  ctxCount : s.ctxs.length = s.cfg.nctx
  txbufWf : s.txbuf.wf ∧ ∀ x ∈ s.txbuf, x.1 < s.cfg.txbufSize
  cdataWf : s.cdata.wf ∧ ∀ x ∈ s.cdata, x.1 < 2 ^ s.cfg.ptrW
  ownerExists : ∀ i, s.lockOwner = .ctx i → i < s.ctxs.length
  pendMeans : s.pendValid = true → ∃ i c, s.lockOwner = .ctx i ∧ s.ctxs[i]? = some c ∧ PendingFor s c
  reportedMeans : s.lockReported = true → (∃ i, s.lockOwner = .ctx i) ∧ s.pendValid = false
  callsRunning : s.calls.Nodup ∧ ∀ i ∈ s.calls, ∃ c : Ctx, s.ctxs[i]? = some c ∧ Running c

variable {s : State} {i : Nat} {c : Ctx}

theorem Invariant.context (h : Invariant s) (hc : s.ctxs[i]? = some c) : ContextInv s i c :=
  ⟨h.inFlightOwns i c hc, h.builtIsPending i c hc, fun ho => h.latchedIsReported i c ho hc, h.outcomeMeans i c hc,
    h.validMeans i c hc, h.faultedMeans i c hc, h.pointerFits i c hc, h.argsChecked i c hc⟩

theorem Invariant.shared (h : Invariant s) : SharedInv s :=
  { h with
    pendMeans := fun hv => by
      obtain ⟨i, c, ho, hc, hphase, hrep, hout, hcount, hbytes⟩ := h.pendMeans hv
      exact ⟨i, c, ho, hc, hphase, hrep, hout, hcount, hbytes⟩ }

theorem invariant_iff :
    Invariant s ↔ SharedInv s ∧ ∀ (i : Nat) (c : Ctx), s.ctxs[i]? = some c → ContextInv s i c := by
  refine ⟨fun h => ⟨h.shared, fun _ _ hc => h.context hc⟩, fun ⟨hs, hctx⟩ => ?_⟩
  exact { hs with
    pendMeans := fun hv => by
      obtain ⟨i, c, ho, hc, hp⟩ := hs.pendMeans hv
      exact ⟨i, c, ho, hc, hp.phase, hp.unreported, hp.outcome, hp.count, hp.bytes⟩
    inFlightOwns := fun i c hc => (hctx i c hc).inFlightOwns
    builtIsPending := fun i c hc => (hctx i c hc).builtIsPending
    latchedIsReported := fun i c ho hc => (hctx i c hc).latchedIsReported ho
    outcomeMeans := fun i c hc => (hctx i c hc).outcomeMeans
    validMeans := fun i c hc => (hctx i c hc).validMeans
    faultedMeans := fun i c hc => (hctx i c hc).faultedMeans
    pointerFits := fun i c hc => (hctx i c hc).pointerFits
    argsChecked := fun i c hc => (hctx i c hc).argsChecked }

/-! ### Facts a state that meets the invariants gives -/

/-- Before a context is sent its outcome is open (I-5). -/
theorem ContextInv.outcome_empty (h : ContextInv s i c) (hs : c.phase ≠ .sent) (ha : c.phase ≠ .awaiting) :
    c.outcome = .empty :=
  Decidable.byContradiction fun ho => (h.outcomeMeans ho).elim hs ha

/-- A call in progress has no valid result (I-6). -/
theorem ContextInv.resultValid_false (h : ContextInv s i c) (hp : c.phase ≠ .idle) : c.resultValid = false :=
  Bool.eq_false_iff.2 fun hv => hp (h.validMeans hv)

/-- What is pending while context `i` owns the slot is the request of context `i` (I-3). -/
theorem Invariant.pendingFor (h : Invariant s) (hc : s.ctxs[i]? = some c) (ho : s.lockOwner = .ctx i)
    (hv : s.pendValid = true) : PendingFor s c := by
  obtain ⟨j, d, hj, hd, hp⟩ := h.shared.pendMeans hv
  cases ho.symm.trans hj
  cases hc.symm.trans hd
  exact hp

/-- A pending request has an owner, not yet reported (I-3). -/
theorem Invariant.pendValid_false (h : Invariant s) (hq : ∀ i, s.lockOwner = .ctx i → s.lockReported = true) :
    s.pendValid = false := by
  refine Bool.eq_false_iff.2 fun hv => ?_
  obtain ⟨i, _, ho, _, hp⟩ := h.shared.pendMeans hv
  exact Bool.false_ne_true (hp.unreported.symm.trans (hq i ho))

/-- With no owner but a reported one, nothing is in flight (I-1). -/
theorem Invariant.not_inFlight (h : Invariant s) (hq : ∀ i, s.lockOwner = .ctx i → s.lockReported = true)
    (hc : s.ctxs[i]? = some c) : ¬ InFlight c := fun hf => by
  obtain ⟨ho, hr⟩ := h.inFlightOwns i c hc hf
  exact Bool.false_ne_true (hr.symm.trans (hq i ho))

/-- Until its owner has built a request, nothing is pending (I-3). -/
theorem Invariant.pendValid_false_of_early (h : Invariant s) (hc : s.ctxs[i]? = some c)
    (hp : c.phase = .idle ∨ c.phase = .acquiring ∨ c.phase = .serializing) (ho : s.lockOwner = .ctx i) :
    s.pendValid = false := by
  refine Bool.eq_false_iff.2 fun hv => ?_
  have hb := (h.pendingFor hc ho hv).phase
  rcases hp with hp | hp | hp <;> simp [hp] at hb

/-- The composite calls in progress are those of running contexts only. -/
theorem Invariant.running_of_mem_calls (h : Invariant s) (hc : s.ctxs[i]? = some c) (hi : i ∈ s.calls) : Running c := by
  obtain ⟨d, hd, hrun⟩ := h.callsRunning.2 i hi
  cases hc.symm.trans hd
  exact hrun

theorem Invariant.not_mem_calls (h : Invariant s) (hc : s.ctxs[i]? = some c) (hp : c.phase = .idle) : i ∉ s.calls :=
  fun hi => (h.running_of_mem_calls hc hi).1 hp

/-- A context that exists has a number below `NCTX`. -/
theorem Invariant.lt_nctx (h : Invariant s) (hc : s.ctxs[i]? = some c) : i < s.cfg.nctx :=
  h.ctxCount ▸ (List.getElem?_eq_some_iff.1 hc).1

/-- A context that satisfies `ACC(i)` has its outcome open and its request pending. -/
theorem Invariant.of_accepts (h : Invariant s) (ha : Accepts s i) (hc : s.ctxs[i]? = some c) :
    (c.phase = .sent ∨ c.phase = .awaiting) ∧ c.outcome = .empty ∧ s.pendValid = true := by
  obtain ⟨ho, hr, d, hd, hp⟩ := ha
  cases hc.symm.trans hd
  have hout : c.outcome = .empty := Decidable.byContradiction fun hne =>
    Bool.false_ne_true (hr.symm.trans (h.latchedIsReported i c ho hc hne))
  exact ⟨hp, hout, h.builtIsPending i c hc (.inr hp) hout⟩

/-- Settles O46: the owner of the slot is one, and its open outcome and pending request are `Invariant.of_accepts`. -/
theorem acceptanceIsUnambiguous : Obligations.AcceptanceIsUnambiguous := by
  intro s i j c h hi hj hc
  have hij : i = j := Owner.ctx.inj (hi.1.symm.trans hj.1)
  obtain ⟨-, hout, hv⟩ := h.of_accepts hi hc
  exact ⟨hij, hout, hv⟩

end Sys2Proof.Safety
end

/-! ## One rule per register write: what it needs to keep the invariants -/
section

namespace Sys2Proof.Machine

theorem State.setCtx_get_self (s : State) {i : Nat} {c : Ctx} (d : Ctx) (h : s.ctxs[i]? = some c) :
    (s.setCtx i d).ctxs[i]? = some d := by
  rw [s.setCtx_get i i c d h, if_pos rfl]

theorem State.setCtx_get_other (s : State) {i k : Nat} (d : Ctx) (h : k ≠ i) :
    (s.setCtx i d).ctxs[k]? = s.ctxs[k]? :=
  List.getElem?_set_ne (Ne.symm h)

/-- The writes of an operation that moves context `i` to `d`, with the report mark of the slot and the pending registers. -/
def State.moveCtx (s : State) (i : Nat) (d : Ctx) (reported valid : Bool) (count : Half) : State :=
  ((s.setCtx i d).setLock s.lockOwner reported).setPend valid count

@[simp] theorem State.moveCtx_ctxs (s : State) (i : Nat) (d : Ctx) (reported valid : Bool) (count : Half) :
    (s.moveCtx i d reported valid count).ctxs = s.ctxs.set i d := rfl
@[simp] theorem State.moveCtx_cfg (s : State) (i : Nat) (d : Ctx) (reported valid : Bool) (count : Half) :
    (s.moveCtx i d reported valid count).cfg = s.cfg := rfl
@[simp] theorem State.moveCtx_lockOwner (s : State) (i : Nat) (d : Ctx) (reported valid : Bool) (count : Half) :
    (s.moveCtx i d reported valid count).lockOwner = s.lockOwner := rfl

end Sys2Proof.Machine

namespace Sys2Proof.Safety

open Sys2Proof.Machine

variable {s : State} {i : Nat} {c d : Ctx}

/-! ### Writes the invariants hardly see -/

theorem Invariant.respond (h : Invariant s) (r : Response) : Invariant (s.respond r) := { h with }

theorem Invariant.draw (h : Invariant s) : Invariant s.draw := { h with }

theorem Invariant.emit (h : Invariant s) (e : Event) : Invariant (s.emit e) := { h with }

theorem Invariant.withInputs (h : Invariant s) (l : List Input) : Invariant { s with inputs := l } := { h with }

theorem Invariant.withCalls {l : List Nat} (h : Invariant s) (hnd : l.Nodup) (hsub : ∀ i ∈ l, i ∈ s.calls) :
    Invariant { s with calls := l } :=
  { h with callsRunning := ⟨hnd, fun i hi => h.callsRunning.2 i (hsub i hi)⟩ }

theorem Invariant.endCall (h : Invariant s) (i : Nat) : Invariant (s.endCall i) :=
  h.withCalls (h.callsRunning.1.filter _) fun _ hj => List.mem_of_mem_filter hj

theorem Invariant.addCall (h : Invariant s) (hc : s.ctxs[i]? = some c) (hrun : Running c) (hi : i ∉ s.calls) :
    Invariant (s.addCall i) :=
  { h with
    callsRunning := by
      refine ⟨List.nodup_append.2 ⟨h.callsRunning.1, List.nodup_singleton i, ?_⟩, fun j hj => ?_⟩
      · rintro j hj k hk rfl
        exact hi (List.mem_singleton.1 hk ▸ hj)
      · rcases List.mem_append.1 hj with hj | hj
        · exact h.callsRunning.2 j hj
        · exact ⟨c, List.mem_singleton.1 hj ▸ hc, hrun⟩ }

theorem Invariant.setFault (h : Invariant s) (f : FaultReg) : Invariant (s.setFault f) :=
  { h with
    faultedMeans := fun i c hc hp => by simp [h.faultedMeans i c hc hp] }

/-- The owner of `CDATA` writes inside the space. -/
theorem Invariant.setCdata (h : Invariant s) {a : Nat} (b : Byte) (ha : a < 2 ^ s.cfg.ptrW) :
    Invariant { s with cdata := s.cdata.set a b } :=
  { h with
    cdataWf := by
      refine ⟨Memory.wf_set _ _ _ h.cdataWf.1, fun x hx => ?_⟩
      rcases Memory.mem_set _ _ _ _ hx with rfl | hx
      · exact ha
      · exact h.cdataWf.2 x hx }

/-! ### The transmit state, the slot, and a context with the registers of its request -/

/-- With nothing pending the transmit state may be written inside the buffer. -/
theorem Invariant.setTx_write (h : Invariant s) (hv : s.pendValid = false) {a : Nat} {l : List Byte}
    (hl : a + l.length ≤ s.cfg.txbufSize) (n : Half) (dest : Byte) : Invariant (s.setTx (s.txbuf.write a l) n dest) :=
  { h with
    txbufWf := by
      refine ⟨Memory.wf_write _ _ _ h.txbufWf.1, fun x hx => ?_⟩
      rcases Memory.mem_write _ _ _ _ hx with hx | hx
      · exact Nat.lt_of_lt_of_le hx.2 hl
      · exact h.txbufWf.2 x hx
    pendMeans := fun ht => absurd (hv.symm.trans ht) Bool.false_ne_true }

/-- The slot may change hands while no owner waits unreported, to one whose outcome is open. -/
theorem Invariant.setLock (h : Invariant s) (hq : ∀ i, s.lockOwner = .ctx i → s.lockReported = true) {o : Owner}
    (ho : ∀ i, o = .ctx i → ∃ c, s.ctxs[i]? = some c ∧ c.outcome = .empty) : Invariant (s.setLock o false) :=
  { h with
    ownerExists := fun i hi => by
      obtain ⟨c, hc, -⟩ := ho i hi
      exact (List.getElem?_eq_some_iff.1 hc).1
    inFlightOwns := fun i c hc hf => absurd hf (h.not_inFlight hq hc)
    pendMeans := fun hv => absurd ((h.pendValid_false hq).symm.trans hv) Bool.false_ne_true
    latchedIsReported := fun i c hi hc hne => by
      obtain ⟨d, hd, hout⟩ := ho i hi
      cases hc.symm.trans hd
      exact absurd hout hne
    reportedMeans := fun hr => absurd hr Bool.false_ne_true }

/-- The clauses on a context that does not own the slot do not see the lock or the pending registers change. -/
theorem ContextInv.of_not_owner {t : State} (h : ContextInv s i c) (hs : s.lockOwner ≠ .ctx i)
    (ho : t.lockOwner = s.lockOwner) (hf : t.fault = s.fault) (hcfg : t.cfg = s.cfg) : ContextInv t i c := by
  have hnot : ¬ InFlight c := fun hfl => hs (h.inFlightOwns hfl).1
  refine ⟨fun hfl => absurd hfl hnot, fun hb hout => absurd ?_ hnot, fun hi => absurd (ho ▸ hi) hs, h.outcomeMeans,
    h.validMeans, hf ▸ h.faultedMeans, hcfg ▸ h.pointerFits, hcfg ▸ h.argsChecked⟩
  rcases hb with hb | hb
  · exact .inr (.inl hb)
  · exact .inr (.inr ⟨hb, hout⟩)

/-- The rule for every operation that moves a context: the context's own clauses, and what is pending if it owns the slot. -/
theorem Invariant.moveCtx {r v : Bool} {n : Half} (h : Invariant s) (hc : s.ctxs[i]? = some c)
    (hown : s.lockOwner ≠ .ctx i → r = s.lockReported ∧ v = s.pendValid ∧ n = s.pendCount)
    (hd : ContextInv (s.moveCtx i d r v n) i d)
    (hpend : s.lockOwner = .ctx i → v = true → PendingFor (s.moveCtx i d r v n) d)
    (hrep : s.lockOwner = .ctx i → r = true → v = false)
    (hrun : i ∈ s.calls → Running d) : Invariant (s.moveCtx i d r v n) := by
  have get_self : (s.moveCtx i d r v n).ctxs[i]? = some d := s.setCtx_get_self d hc
  have get_other : ∀ k, k ≠ i → (s.moveCtx i d r v n).ctxs[k]? = s.ctxs[k]? :=
    fun k hk => s.setCtx_get_other d hk
  refine invariant_iff.2 ⟨{ h.shared with
    ctxCount := by simpa using h.ctxCount
    ownerExists := fun j hj => by simpa using h.ownerExists j hj
    pendMeans := fun hv => ?_
    reportedMeans := fun hr => ?_
    callsRunning := ⟨h.callsRunning.1, fun j hj => ?_⟩ }, fun k e he => ?_⟩
  · by_cases ho : s.lockOwner = .ctx i
    · exact ⟨i, d, ho, get_self, hpend ho hv⟩
    · obtain ⟨rfl, rfl, rfl⟩ := hown ho
      obtain ⟨j, e, hj, he, hp⟩ := h.shared.pendMeans hv
      have hji : j ≠ i := fun hji => ho (hji ▸ hj)
      exact ⟨j, e, hj, (get_other j hji).trans he, { hp with }⟩
  · by_cases ho : s.lockOwner = .ctx i
    · exact ⟨⟨i, ho⟩, hrep ho hr⟩
    · obtain ⟨rfl, rfl, rfl⟩ := hown ho
      exact h.reportedMeans hr
  · by_cases hji : j = i
    · exact ⟨d, hji ▸ get_self, hrun (hji ▸ hj)⟩
    · rw [get_other j hji]
      exact h.callsRunning.2 j hj
  · by_cases hki : k = i
    · subst hki
      cases get_self.symm.trans he
      exact hd
    · have hk := h.context ((get_other k hki).symm.trans he)
      by_cases ho : s.lockOwner = .ctx i
      · have hnot : s.lockOwner ≠ .ctx k := fun hok => hki (Owner.ctx.inj (hok.symm.trans ho))
        exact hk.of_not_owner hnot rfl rfl rfl
      · obtain ⟨rfl, rfl, rfl⟩ := hown ho
        exact { hk with }

/-- The rule for an operation that writes a context and no shared register. -/
theorem Invariant.setCtx (h : Invariant s) (hc : s.ctxs[i]? = some c) (hd : ContextInv s i d)
    (hpend : s.lockOwner = .ctx i → s.pendValid = true → PendingFor s d) (hrun : i ∈ s.calls → Running d) :
    Invariant (s.setCtx i d) :=
  h.moveCtx (r := s.lockReported) (v := s.pendValid) (n := s.pendCount) hc (fun _ => ⟨rfl, rfl, rfl⟩) { hd with }
    (fun ho hv => { hpend ho hv with }) (fun _ hr => (h.reportedMeans hr).2) hrun

end Sys2Proof.Safety
end

/-! ## Every operation keeps the invariants -/
section

namespace Sys2Proof.Machine

@[simp] theorem requestBytes_length (s : State) (a : Arg) : (requestBytes s a).length = 7 + a.dsize.toNat := by
  simp [requestBytes, callData]

/-- Bytes 5 and 6 of the built request are the count (R47). -/
theorem readBytes_count_after_build (s : State) (a : Arg) (n : Half) (dest : Byte) :
    readBytes (s.setTx (s.txbuf.write 0 (requestBytes s a)) n dest).txByte 5 2 = be16 a.dsize := by
  simp [readBytes, List.range_succ, State.txByte_setTx_write, requestBytes, reqBytes, be32, be16]

theorem outcomeOf_ne_empty (e : Exc) : outcomeOf e ≠ .empty := by
  unfold outcomeOf
  split <;> simp

end Sys2Proof.Machine

namespace Sys2Proof.Safety

open Sys2Proof.Machine

variable {s t : State} {i : Nat} {c d : Ctx}

/-! ### The clauses on a context by its phase -/

theorem ContextInv.of_idle (hp : d.phase = .idle) (hout : d.outcome = .empty) (hptr : d.arg.dptr < 2 ^ s.cfg.ptrW) :
    ContextInv s i d := by
  constructor <;> simp [hp, hout, hptr]

theorem ContextInv.of_faulted (hp : d.phase = .faulted) (hf : s.fault ≠ .none) (hout : d.outcome = .empty)
    (hv : d.resultValid = false) (hptr : d.arg.dptr < 2 ^ s.cfg.ptrW) : ContextInv s i d := by
  constructor <;> simp [hp, hf, hout, hv, hptr]

/-- A call in progress with its outcome open: past `ACQUIRING` it owns the slot, past `SERIALIZING` its request is pending. -/
theorem ContextInv.of_running (hrun : Running d) (hout : d.outcome = .empty) (hv : d.resultValid = false)
    (hptr : d.arg.dptr < 2 ^ s.cfg.ptrW) (hargs : argchk s.cfg d.arg.slave = true ∧ capchk s.cfg d.arg.dptr d.arg.dsize = .ok)
    (hown : d.phase ≠ .acquiring → s.lockOwner = .ctx i ∧ s.lockReported = false)
    (hpend : d.phase ≠ .acquiring → d.phase ≠ .serializing → s.pendValid = true) : ContextInv s i d where
  inFlightOwns hf := hown fun hp => by simp [hp, InFlight] at hf
  builtIsPending hb _ := hpend (fun hp => by simp [hp] at hb) fun hp => by simp [hp] at hb
  latchedIsReported _ hne := absurd hout hne
  outcomeMeans hne := absurd hout hne
  validMeans hvt := absurd (hv.symm.trans hvt) Bool.false_ne_true
  faultedMeans hp := absurd hp hrun.2
  pointerFits := hptr
  argsChecked _ _ := hargs

/-! ### The shared transitions -/

/-- A call may end where what is pending, if anything, is not the request of its context. -/
theorem Invariant.returnCode (h : Invariant s) (hc : s.ctxs[i]? = some c) (hd : d.arg = c.arg) (hout : d.outcome = .empty)
    (hv : s.lockOwner = .ctx i → s.pendValid = false) (code : ErrorCode) : Invariant (returnCode i d code s) := by
  have hctx : Invariant ((s.endCall i).setCtx i { d with phase := .idle, result := code, resultValid := true }) :=
    (h.endCall i).setCtx hc (.of_idle rfl hout (hd ▸ h.pointerFits i c hc))
      (fun ho => by simp [hv ho]) (fun hi => by simp at hi)
  exact hctx.respond _

theorem Invariant.raiseFault (h : Invariant s) (hc : s.ctxs[i]? = some c) (hp : c.phase = .idle) {f : FaultReg}
    (hf : f ≠ .none) : Invariant (raiseFault i c f s) := by
  have hout : c.outcome = .empty := (h.context hc).outcome_empty (by simp [hp]) (by simp [hp])
  have hset : (s.setFault f).fault ≠ .none := by
    by_cases hs : s.fault = .none <;> simp [hs, hf]
  have hctx : Invariant ((s.setFault f).setCtx i { c with phase := .faulted, resultValid := false }) :=
    (h.setFault f).setCtx hc (.of_faulted rfl hset hout rfl (h.pointerFits i c hc))
      (fun ho => by simp [h.pendValid_false_of_early hc (.inl hp) ho])
      (fun hi => absurd hi (h.not_mem_calls hc hp))
  exact hctx.respond _

theorem Invariant.beginCall (h : Invariant s) (hc : s.ctxs[i]? = some c) (hp : c.phase = .idle) {a : Arg}
    (hptr : a.dptr < 2 ^ s.cfg.ptrW) (hargs : argchk s.cfg a.slave = true ∧ capchk s.cfg a.dptr a.dsize = .ok) :
    Invariant (beginCall i c a s) := by
  have hctx : Invariant (s.setCtx i { c with phase := .acquiring, arg := a, outcome := .empty, resultValid := false }) :=
    h.setCtx hc (.of_running ⟨nofun, nofun⟩ rfl rfl hptr hargs (by simp) (by simp))
      (fun ho => by simp [h.pendValid_false_of_early hc (.inl hp) ho])
      (fun hi => absurd hi (h.not_mem_calls hc hp))
  exact hctx.respond _

/-- A report latches the outcome of the context that satisfies `ACC(i)`. -/
theorem Invariant.report (h : Invariant s) (ha : Accepts s i) (hc : s.ctxs[i]? = some c) {o : OutcomeReg}
    (ho : o ≠ .empty) (r : Response) : Invariant (report i c o r s) := by
  have hk := h.context hc
  obtain ⟨hp, -, -⟩ := h.of_accepts ha hc
  have hrun : Running c := by rcases hp with hp | hp <;> simp [Running, hp]
  have hnot : ¬ InFlight { c with outcome := o } := by rcases hp with hp | hp <;> simp [InFlight, hp, ho]
  have hmove : Invariant (s.moveCtx i { c with outcome := o } true false s.pendCount) :=
    h.moveCtx hc (fun hne => absurd ha.1 hne)
      { hk with
        inFlightOwns := fun hf => absurd hf hnot
        builtIsPending := fun _ hout => absurd hout ho
        latchedIsReported := fun _ _ => rfl
        outcomeMeans := fun _ => hp }
      (fun _ hv => absurd hv Bool.false_ne_true) (fun _ _ => rfl) (fun _ => hrun)
  exact hmove.respond _

theorem Invariant.discardReport (h : Invariant s) (kind : ReportKind) (exc : Option Exc) :
    Invariant (discardReport kind exc s) := (h.emit _).respond _

theorem Invariant.takeSlot (h : Invariant s) (hc : s.ctxs[i]? = some c) (hp : c.phase = .acquiring)
    (ho : s.lockOwner = .none) : Invariant (takeSlot i c s) := by
  have hk := h.context hc
  have hout : c.outcome = .empty := hk.outcome_empty (by simp [hp]) (by simp [hp])
  have hv : s.pendValid = false := h.pendValid_false (by simp [ho])
  have hlock : Invariant (s.setLock (.ctx i) false) :=
    h.setLock (by simp [ho]) fun j hj => ⟨c, Owner.ctx.inj hj ▸ hc, hout⟩
  have hctx : Invariant ((s.setLock (.ctx i) false).setCtx i { c with phase := .serializing }) :=
    hlock.setCtx hc
      (.of_running ⟨nofun, nofun⟩ hout (hk.resultValid_false (by simp [hp])) hk.pointerFits
        (hk.argsChecked (by simp [hp]) (by simp [hp])) (fun _ => ⟨rfl, rfl⟩) (by simp))
      (fun _ => by simp [hv]) (fun _ => ⟨nofun, nofun⟩)
  exact hctx.respond _

theorem Invariant.buildRequest (h : Invariant s) (hc : s.ctxs[i]? = some c) (hp : c.phase = .serializing)
    (hlen : 7 + c.arg.dsize.toNat ≤ s.cfg.txbufSize) : Invariant (buildRequest i c s) := by
  have hk := h.context hc
  have hout : c.outcome = .empty := hk.outcome_empty (by simp [hp]) (by simp [hp])
  obtain ⟨ho, hr⟩ := hk.inFlightOwns (.inl hp)
  have hv : s.pendValid = false := h.pendValid_false_of_early hc (by simp [hp]) ho
  have htx := h.setTx_write hv (a := 0) (l := requestBytes s c.arg) (by simpa using hlen)
    (s.cfg.reqLenBase + c.arg.dsize) c.arg.slave
  have hmove := htx.moveCtx (d := { c with phase := .locked }) (r := s.lockReported) (v := true) (n := c.arg.dsize) hc
    (fun hne => absurd ho hne)
    (.of_running ⟨nofun, nofun⟩ hout (hk.resultValid_false (by simp [hp])) hk.pointerFits
      (hk.argsChecked (by simp [hp]) (by simp [hp])) (fun _ => ⟨ho, hr⟩) (fun _ _ => rfl))
    (fun _ _ => ⟨.inl rfl, hr, hout, rfl, readBytes_count_after_build s c.arg (s.cfg.reqLenBase + c.arg.dsize) c.arg.slave⟩)
    (fun _ => by simp [hr]) (fun _ => ⟨nofun, nofun⟩)
  exact hmove.respond _

/-! ### The operations -/

/-- The call entry, whatever its accepted arm. -/
theorem enterCall_keeps_invariant {acc : Ctx → State} {slave : Byte} {dptr : Nat} {dsize : Half} (h : Invariant s)
    (hacc : ∀ c, s.ctxs[i]? = some c → c.phase = .idle → argchk s.cfg slave = true ∧ capchk s.cfg dptr dsize = .ok →
      Invariant (acc c))
    (he : enterCall acc i slave dptr dsize s = .next t) : Invariant t := by
  obtain ⟨c, hc, hcase⟩ := enterCall_next he
  rcases hcase with ⟨-, rfl⟩ | ⟨hp, -, rfl⟩ | ⟨hp, -, -, rfl⟩ | ⟨hp, -, -, rfl⟩ | ⟨hp, ha, hk, rfl⟩
  · exact h.respond _
  · exact h.returnCode hc rfl ((h.context hc).outcome_empty (by simp [hp]) (by simp [hp]))
      (h.pendValid_false_of_early hc (.inl hp)) _
  · exact h.raiseFault hc hp (by simp)
  · exact h.raiseFault hc hp (by simp)
  · exact hacc c hc hp ⟨ha, hk⟩

theorem execIssue_keeps_invariant {slave : Byte} {baddr : Word} {dptr : Nat} {dsize : Half} {tmo : Word} (h : Invariant s)
    (hptr : dptr < 2 ^ s.cfg.ptrW) (he : execIssue i slave baddr dptr dsize tmo s = .next t) : Invariant t :=
  enterCall_keeps_invariant h (fun _ hc hp hargs => h.beginCall hc hp hptr hargs) he

theorem execWbreq_keeps_invariant {slave : Byte} {baddr : Word} {dptr : Nat} {dsize : Half} {tmo : Word} (h : Invariant s)
    (hptr : dptr < 2 ^ s.cfg.ptrW) (he : execWbreq i slave baddr dptr dsize tmo s = .next t) : Invariant t := by
  refine enterCall_keeps_invariant h (fun c hc hp hargs => ?_) he
  have hbegin := h.beginCall hc hp (a := { slave, baddr, dptr, dsize, tmo }) hptr hargs
  exact hbegin.addCall (s.setCtx_get_self _ hc) ⟨nofun, nofun⟩ (h.not_mem_calls hc hp)

theorem execAcquire_keeps_invariant (h : Invariant s) (he : execAcquire i s = .next t) : Invariant t := by
  obtain ⟨c, hc, hcase⟩ := execAcquire_next he
  rcases hcase with ⟨-, rfl⟩ | ⟨hp, ho, rfl⟩ | ⟨-, -, -, rfl⟩ | ⟨hp, -, -, rfl⟩ | ⟨-, -, -, rfl⟩
  · exact h.respond _
  · exact h.takeSlot hc hp ho
  · exact h.respond _
  · exact h.draw.returnCode hc rfl ((h.context hc).outcome_empty (by simp [hp]) (by simp [hp]))
      (h.pendValid_false_of_early hc (by simp [hp])) _
  · exact h.draw.respond _

theorem execBuild_keeps_invariant (h : Invariant s) (he : execBuild i s = .next t) : Invariant t := by
  obtain ⟨c, hc, hcase⟩ := execBuild_next he
  rcases hcase with ⟨-, rfl⟩ | ⟨hp, hlen, rfl⟩
  · exact h.respond _
  · exact h.buildRequest hc hp hlen

theorem execPost_keeps_invariant (h : Invariant s) (he : execPost i s = .next t) : Invariant t := by
  obtain ⟨c, hc, hcase⟩ := execPost_next he
  rcases hcase with ⟨-, rfl⟩ | ⟨hp, rfl⟩
  · exact h.respond _
  · have hk := h.context hc
    have hout : c.outcome = .empty := hk.outcome_empty (by simp [hp]) (by simp [hp])
    have hctx : Invariant ((s.emit (.txEvent i)).setCtx i { c with phase := .sent }) :=
      (h.emit _).setCtx hc
        (.of_running ⟨nofun, nofun⟩ hout (hk.resultValid_false (by simp [hp])) hk.pointerFits
          (hk.argsChecked (by simp [hp]) (by simp [hp])) (fun _ => hk.inFlightOwns (.inr (.inl hp)))
          (fun _ _ => hk.builtIsPending (.inl hp) hout))
        (fun ho hv => { h.pendingFor hc ho hv with phase := .inr (.inl rfl) }) (fun _ => ⟨nofun, nofun⟩)
    exact hctx.respond _

theorem execWait_keeps_invariant (h : Invariant s) (he : execWait i s = .next t) : Invariant t := by
  obtain ⟨c, hc, hcase⟩ := execWait_next he
  rcases hcase with ⟨-, rfl⟩ | ⟨hp, rfl⟩
  · exact h.respond _
  · have hk := h.context hc
    have hctx : Invariant (s.setCtx i { c with phase := .awaiting }) :=
      h.setCtx hc
        { hk with
          inFlightOwns := fun hf => hk.inFlightOwns (by simpa [InFlight, hp] using hf)
          builtIsPending := fun _ => hk.builtIsPending (.inr (.inl hp))
          outcomeMeans := fun _ => .inr rfl
          validMeans := by simp [hk.resultValid_false (by simp [hp] : c.phase ≠ .idle)]
          faultedMeans := fun hf => by cases hf
          argsChecked := fun _ _ => hk.argsChecked (by simp [hp]) (by simp [hp]) }
        (fun ho hv => { h.pendingFor hc ho hv with phase := .inr (.inr rfl) }) (fun _ => ⟨nofun, nofun⟩)
    exact hctx.respond _

theorem execWake_keeps_invariant (h : Invariant s) (he : execWake i s = .next t) : Invariant t := by
  obtain ⟨c, hc, hcase⟩ := execWake_next he
  rcases hcase with ⟨-, rfl⟩ | ⟨-, -, rfl⟩ | ⟨-, hout, code, -, rfl⟩
  · exact h.respond _
  · exact h.respond _
  · exact h.returnCode (d := { c with outcome := .empty }) hc rfl rfl
      (fun ho => (h.reportedMeans (h.latchedIsReported i c ho hc hout)).2) code

theorem execReportRsp_keeps_invariant {rsp : List Byte} {len : Half} (h : Invariant s)
    (he : execReportRsp rsp len s = .next t) : Invariant t := by
  obtain ⟨e, -, hcase⟩ := execReportRsp_next he
  rcases hcase with ⟨i, c, ha, hc, rfl⟩ | ⟨-, rfl⟩
  · exact h.report ha hc (outcomeOf_ne_empty e) _
  · exact h.discardReport _ _

theorem execReportExc_keeps_invariant {code : Exc} (h : Invariant s) (he : execReportExc code s = .next t) :
    Invariant t := by
  rcases execReportExc_next he with ⟨i, c, ha, hc, -, rfl⟩ | ⟨-, rfl⟩
  · exact h.report ha hc (by simp) _
  · exact h.discardReport _ _

theorem execReportTmo_keeps_invariant (h : Invariant s) (he : execReportTmo s = .next t) : Invariant t := by
  rcases execReportTmo_next he with ⟨i, c, ha, hc, rfl⟩ | ⟨-, rfl⟩
  · exact h.report ha hc (by simp) _
  · exact h.discardReport _ _

theorem giveVerdict_keeps_invariant {rsp : List Byte} {len : Half} (h : Invariant s)
    (he : giveVerdict rsp len s = .next t) : Invariant t := by
  obtain ⟨e, -, rfl⟩ := giveVerdict_next he
  exact h.respond _

theorem execRelease_keeps_invariant (h : Invariant s) (he : execRelease s = .next t) : Invariant t := by
  rcases execRelease_next he with ⟨i, -, hr, rfl⟩ | ⟨-, rfl⟩
  · exact (h.setLock (fun _ _ => hr) (by simp)).respond _
  · exact h.respond _

theorem execXacquire_keeps_invariant (h : Invariant s) (he : execXacquire s = .next t) : Invariant t := by
  rcases execXacquire_next he with ⟨ho, rfl⟩ | ⟨-, rfl⟩
  · exact (h.setLock (by simp [ho]) (by simp)).respond _
  · exact h.respond _

/-- Only a context's slot is ever reported (I-4). -/
theorem Invariant.lockReported_false (h : Invariant s) (ho : ∀ i, s.lockOwner ≠ .ctx i) : s.lockReported = false :=
  Bool.eq_false_iff.2 fun hr => by
    obtain ⟨⟨i, hi⟩, -⟩ := h.reportedMeans hr
    exact ho i hi

theorem execXrelease_keeps_invariant (h : Invariant s) (he : execXrelease s = .next t) : Invariant t := by
  rcases execXrelease_next he with ⟨ho, rfl⟩ | ⟨-, rfl⟩
  · rw [h.lockReported_false (by simp [ho])]
    exact (h.setLock (by simp [ho]) (by simp)).respond _
  · exact h.respond _

theorem execXwrite_keeps_invariant {x : XTarget} (h : Invariant s) (he : execXwrite x s = .next t) : Invariant t := by
  rcases execXwrite_next he with ⟨ho, hcase⟩ | ⟨-, rfl⟩
  · have hv : s.pendValid = false := h.pendValid_false (by simp [ho])
    rcases hcase with ⟨off, b, -, hoff, rfl⟩ | ⟨v, -, rfl⟩ | ⟨v, -, rfl⟩
    · exact (h.setTx_write hv hoff _ _).respond _
    · exact (h.setTx_write hv (a := 0) (l := []) (Nat.zero_le _) _ _).respond _
    · exact (h.setTx_write hv (a := 0) (l := []) (Nat.zero_le _) _ _).respond _
  · exact h.respond _

theorem legal_issue_iff {slave : Byte} {baddr : Word} {dptr : Nat} {dsize : Half} {tmo : Word} {cfg : Config} :
    (Instr.issue i slave baddr dptr dsize tmo).legal cfg = true ↔ i < cfg.nctx ∧ dptr < 2 ^ cfg.ptrW := by
  simp [Instr.legal]

theorem legal_wbreq_iff {slave : Byte} {baddr : Word} {dptr : Nat} {dsize : Half} {tmo : Word} {cfg : Config} :
    (Instr.wbreq i slave baddr dptr dsize tmo).legal cfg = true ↔ i < cfg.nctx ∧ dptr < 2 ^ cfg.ptrW := by
  simp [Instr.legal]

/-- Every operation whose operands lie in their ranges keeps the invariants. -/
theorem exec_keeps_invariant {op : Instr} (h : Invariant s) (hl : op.legal s.cfg = true) (he : exec op s = .next t) :
    Invariant t := by
  cases op with
  | issue i slave baddr dptr dsize tmo => exact execIssue_keeps_invariant h (legal_issue_iff.1 hl).2 he
  | acquire i => exact execAcquire_keeps_invariant h he
  | build i => exact execBuild_keeps_invariant h he
  | post i => exact execPost_keeps_invariant h he
  | wait i => exact execWait_keeps_invariant h he
  | wake i => exact execWake_keeps_invariant h he
  | validate rsp len => exact giveVerdict_keeps_invariant h he
  | reportRsp rsp len => exact execReportRsp_keeps_invariant h he
  | reportExc code => exact execReportExc_keeps_invariant h he
  | reportTmo => exact execReportTmo_keeps_invariant h he
  | release => exact execRelease_keeps_invariant h he
  | xacquire => exact execXacquire_keeps_invariant h he
  | xwrite x => exact execXwrite_keeps_invariant h he
  | xrelease => exact execXrelease_keeps_invariant h he
  | txread =>
    obtain ⟨r, rfl, -⟩ := execTxread_next he
    exact h.respond _
  | reservedOpidF => cases he
  | wbreq i slave baddr dptr dsize tmo => exact execWbreq_keeps_invariant h (legal_wbreq_iff.1 hl).2 he
  | reqFrame fc baddr count data =>
    obtain ⟨same, rfl⟩ := execReqFrame_next he
    exact h.respond _
  | rspFrame fc written => exact giveVerdict_keeps_invariant h he

end Sys2Proof.Safety
end

/-! ## Reset, and every step -/
section

namespace Sys2Proof.Safety

open Sys2Proof.Machine

variable {s t : State}

theorem vectorsA_legal : Config.vectorsA.Legal := by
  simp [Config.Legal, Config.vectorsA]

/-- The reset state of a legal configuration meets the invariants: every context is idle, nothing is held or pending. -/
theorem resetWith_invariant {cfg : Config} (hcfg : cfg.Legal) : Invariant (State.resetWith cfg) := by
  refine invariant_iff.2 ⟨?_, fun i c hc => ?_⟩
  · exact ⟨hcfg, by simp [State.resetWith], by simp [State.resetWith, Memory.wf], by simp [State.resetWith, Memory.wf],
      nofun, nofun, nofun, by simp [State.resetWith]⟩
  · have hreset : c = Ctx.reset := List.eq_of_mem_replicate (List.mem_of_getElem? hc)
    subst hreset
    exact .of_idle rfl rfl (Nat.two_pow_pos _)

/-- Settles O41. -/
theorem resetMeetsInv : Obligations.ResetMeetsInv :=
  ⟨fun _ hcfg => resetWith_invariant hcfg, resetWith_invariant vectorsA_legal⟩

theorem Invariant.resetInPlace (h : Invariant s) : Invariant (resetInPlace s) :=
  { resetWith_invariant h.cfgLegal with
    cdataWf := h.cdataWf
    pendMeans := fun hv => absurd hv Bool.false_ne_true }

theorem present_keeps_invariant {x : Input} (h : Invariant s) (he : present x s = .next t) : Invariant t := by
  rcases present_next he with ⟨f, bytes, op, -, -, hl, hexec⟩ | ⟨a, b, -, ha, rfl⟩ | ⟨-, rfl⟩
  · exact exec_keeps_invariant h hl hexec
  · exact h.setCdata b ha
  · exact h.resetInPlace

/-- The engine's own operations are in their ranges: the context they name exists. -/
theorem engineOp_legal {i : Nat} {p : Phase} {op : Instr} {cfg : Config} (hi : i < cfg.nctx)
    (hop : engineOp i p = some op) : op.legal cfg = true := by
  cases p <;> cases hop <;> simpa [Instr.legal] using hi

theorem engineTurn_keeps_invariant (h : Invariant s) (he : engineTurn s = .next t) : Invariant t := by
  rcases engineTurn_next he with ⟨-, rfl⟩ | ⟨i, rest, hcalls, hcase⟩
  · exact h
  · have hnd : (i :: rest).Nodup := hcalls ▸ h.callsRunning.1
    rcases hcase with ⟨c, op, hc, hop, hexec⟩ | rfl
    · have hturn : Invariant { s with calls := rest ++ [i] } :=
        h.withCalls ((List.perm_append_singleton i rest).nodup_iff.2 hnd) fun j hj => by
          rw [hcalls]
          exact (List.perm_append_singleton i rest).mem_iff.1 hj
      exact exec_keeps_invariant hturn (engineOp_legal (h.lt_nctx hc) hop) hexec
    · exact h.withCalls (List.nodup_cons.1 hnd).2 fun j hj => hcalls ▸ List.mem_cons_of_mem i hj

/-- Settles O42: a presented input (`present_keeps_invariant`) or the engine's own move (`engineTurn_keeps_invariant`), each
by the rules of the register writes it makes. -/
theorem stepKeepsInv : Obligations.StepKeepsInv := by
  intro s t h he
  rcases step_next he with ⟨x, rest, -, hx⟩ | ⟨-, hturn⟩
  · exact present_keeps_invariant (h.withInputs rest) hx
  · exact engineTurn_keeps_invariant h hturn

end Sys2Proof.Safety
end

/-! ## What the operations of each agent leave alone -/
section

namespace Sys2Proof.Safety

open Sys2Proof.Machine

variable {s t : State} {i : Nat} {c d : Ctx} {op : Instr}

/-- A context in `FAULTED` stays exactly as it is (R26). -/
def KeepsFaulted (s t : State) : Prop :=
  ∀ (k : Nat) (c : Ctx), s.ctxs[k]? = some c → c.phase = .faulted → t.ctxs[k]? = some c

theorem KeepsFaulted.of_eq (h : t.ctxs = s.ctxs) : KeepsFaulted s t := fun _ _ hk _ => h ▸ hk

/-- Writing a context that is not in `FAULTED` leaves every one that is. -/
theorem KeepsFaulted.of_set (hc : s.ctxs[i]? = some c) (hp : c.phase ≠ .faulted) (h : t.ctxs = s.ctxs.set i d) :
    KeepsFaulted s t := fun k e hk he => by
  have hki : k ≠ i := by
    rintro rfl
    cases hc.symm.trans hk
    exact hp he
  rw [h, List.getElem?_set_ne (Ne.symm hki), hk]

/-- What every operation leaves alone: the parameters, the inputs, and a context in `FAULTED`. -/
structure OpKeeps (s t : State) : Prop where
  cfg : t.cfg = s.cfg
  cdata : t.cdata = s.cdata
  inputs : t.inputs = s.inputs
  epoch : t.epoch = s.epoch
  faulted : KeepsFaulted s t

/-- What a caller's operations leave alone. -/
structure CallerKeeps (s t : State) : Prop extends OpKeeps s t where
  lock : SameLock s t
  tx : SameTx s t
  pend : SamePend s t
  evlog : t.evlog = s.evlog

/-- What the engine's operations leave alone; `POST` adds its event. -/
structure EngineKeeps (op : Instr) (s t : State) : Prop extends OpKeeps s t where
  fault : t.fault = s.fault
  owner : t.lockOwner = s.lockOwner ∨ s.lockOwner = .none
  evlog : t.evlog = s.evlog ∨ ∃ k, op = .post k ∧ t.evlog = s.evlog ++ [.txEvent k]

/-- The report of this kind, the one that a discarded report of the kind names (R31, R89). -/
def ReportOf (op : Instr) : ReportKind → Prop
  | .rsp => ∃ rsp len, op = .reportRsp rsp len
  | .exc => ∃ code, op = .reportExc code
  | .tmo => op = .reportTmo

/-- What the dispatcher's operations leave alone; a discarded report adds its event. -/
structure DispatcherKeeps (op : Instr) (s t : State) : Prop extends OpKeeps s t where
  owner : t.lockOwner = s.lockOwner
  tx : SameTx s t
  count : t.pendCount = s.pendCount
  fault : t.fault = s.fault
  calls : t.calls = s.calls
  evlog : t.evlog = s.evlog ∨ ∃ kind, ReportOf op kind ∧ t.evlog = s.evlog ++ [.discarded kind]

/-- What the operations of the completion path and the other requester leave alone. -/
structure LockUserKeeps (s t : State) : Prop extends OpKeeps s t where
  pend : SamePend s t
  ctxs : t.ctxs = s.ctxs
  fault : t.fault = s.fault
  evlog : t.evlog = s.evlog

/-- What an operation leaves alone, by the agent that initiates it. -/
def AgentKeeps (op : Instr) (s t : State) : Agent → Prop
  | .caller => CallerKeeps s t
  | .engine => EngineKeeps op s t
  | .dispatcher => DispatcherKeeps op s t
  | .completionPath => LockUserKeeps s t ∧ SameTx s t
  | .otherRequester => LockUserKeeps s t

/-! ### The transitions the operations share -/

theorem OpKeeps.respond (s : State) (r : Response) : OpKeeps s (s.respond r) :=
  ⟨rfl, rfl, rfl, rfl, .of_eq rfl⟩

theorem CallerKeeps.respond (s : State) (r : Response) : CallerKeeps s (s.respond r) :=
  { OpKeeps.respond s r with lock := ⟨rfl, rfl⟩, tx := ⟨rfl, rfl, rfl⟩, pend := ⟨rfl, rfl⟩, evlog := rfl }

theorem EngineKeeps.respond (s : State) (r : Response) : EngineKeeps op s (s.respond r) :=
  { OpKeeps.respond s r with fault := rfl, owner := .inl rfl, evlog := .inl rfl }

theorem LockUserKeeps.respond (s : State) (r : Response) : LockUserKeeps s (s.respond r) :=
  { OpKeeps.respond s r with pend := ⟨rfl, rfl⟩, ctxs := rfl, fault := rfl, evlog := rfl }

theorem DispatcherKeeps.respond (s : State) (r : Response) : DispatcherKeeps op s (s.respond r) :=
  { OpKeeps.respond s r with
    owner := rfl, tx := ⟨rfl, rfl, rfl⟩, count := rfl, fault := rfl, calls := rfl, evlog := .inl rfl }

theorem DispatcherKeeps.report (ha : Accepts s i) (hc : s.ctxs[i]? = some c) (o : OutcomeReg) (r : Response) :
    DispatcherKeeps op s (report i c o r s) where
  cfg := rfl
  cdata := rfl
  inputs := rfl
  epoch := rfl
  faulted := .of_set hc (fun hp => by
    obtain ⟨-, -, e, he, hphase⟩ := ha
    cases hc.symm.trans he
    simp [hp] at hphase) rfl
  owner := rfl
  tx := ⟨rfl, rfl, rfl⟩
  count := rfl
  fault := rfl
  calls := rfl
  evlog := .inl rfl

theorem DispatcherKeeps.discardReport {kind : ReportKind} (hop : ReportOf op kind) (exc : Option Exc) :
    DispatcherKeeps op s (discardReport kind exc s) where
  cfg := rfl
  cdata := rfl
  inputs := rfl
  epoch := rfl
  faulted := .of_eq rfl
  owner := rfl
  tx := ⟨rfl, rfl, rfl⟩
  count := rfl
  fault := rfl
  calls := rfl
  evlog := .inr ⟨kind, hop, rfl⟩

theorem CallerKeeps.returnCode (hc : s.ctxs[i]? = some c) (hp : c.phase ≠ .faulted) (code : ErrorCode) :
    CallerKeeps s (returnCode i d code s) :=
  ⟨⟨rfl, rfl, rfl, rfl, .of_set hc hp rfl⟩, ⟨rfl, rfl⟩, ⟨rfl, rfl, rfl⟩, ⟨rfl, rfl⟩, rfl⟩

theorem CallerKeeps.raiseFault (hc : s.ctxs[i]? = some c) (hp : c.phase ≠ .faulted) (f : FaultReg) :
    CallerKeeps s (raiseFault i d f s) :=
  ⟨⟨rfl, rfl, rfl, rfl, .of_set hc hp rfl⟩, ⟨rfl, rfl⟩, ⟨rfl, rfl, rfl⟩, ⟨rfl, rfl⟩, rfl⟩

theorem CallerKeeps.beginCall (hc : s.ctxs[i]? = some c) (hp : c.phase ≠ .faulted) (a : Arg) :
    CallerKeeps s (beginCall i d a s) :=
  ⟨⟨rfl, rfl, rfl, rfl, .of_set hc hp rfl⟩, ⟨rfl, rfl⟩, ⟨rfl, rfl, rfl⟩, ⟨rfl, rfl⟩, rfl⟩

theorem EngineKeeps.returnCode (hc : s.ctxs[i]? = some c) (hp : c.phase ≠ .faulted) (code : ErrorCode) :
    EngineKeeps op s (returnCode i d code s) :=
  ⟨⟨rfl, rfl, rfl, rfl, .of_set hc hp rfl⟩, rfl, .inl rfl, .inl rfl⟩

/-! ### The operations -/

theorem enterCall_keeps {acc : Ctx → State} {slave : Byte} {dptr : Nat} {dsize : Half}
    (hacc : ∀ c, s.ctxs[i]? = some c → c.phase ≠ .faulted → CallerKeeps s (acc c))
    (he : enterCall acc i slave dptr dsize s = .next t) : CallerKeeps s t := by
  obtain ⟨c, hc, hcase⟩ := enterCall_next he
  rcases hcase with ⟨-, rfl⟩ | ⟨hp, -, rfl⟩ | ⟨hp, -, -, rfl⟩ | ⟨hp, -, -, rfl⟩ | ⟨hp, -, -, rfl⟩
  · exact .respond s _
  · exact .returnCode hc (by simp [hp]) _
  · exact .raiseFault hc (by simp [hp]) _
  · exact .raiseFault hc (by simp [hp]) _
  · exact hacc c hc (by simp [hp])

theorem execIssue_keeps {slave : Byte} {baddr : Word} {dptr : Nat} {dsize : Half} {tmo : Word}
    (he : execIssue i slave baddr dptr dsize tmo s = .next t) : CallerKeeps s t := by
  refine enterCall_keeps (fun c hc hp => ?_) he
  exact .beginCall hc hp _

theorem execWbreq_keeps {slave : Byte} {baddr : Word} {dptr : Nat} {dsize : Half} {tmo : Word}
    (he : execWbreq i slave baddr dptr dsize tmo s = .next t) : CallerKeeps s t := by
  refine enterCall_keeps (fun c hc hp => ?_) he
  exact { CallerKeeps.beginCall hc hp { slave, baddr, dptr, dsize, tmo } with }

theorem execAcquire_keeps (he : execAcquire i s = .next t) : EngineKeeps op s t := by
  obtain ⟨c, hc, hcase⟩ := execAcquire_next he
  rcases hcase with ⟨-, rfl⟩ | ⟨hp, ho, rfl⟩ | ⟨-, -, -, rfl⟩ | ⟨hp, -, -, rfl⟩ | ⟨-, -, -, rfl⟩
  · exact .respond s _
  · exact ⟨⟨rfl, rfl, rfl, rfl, .of_set hc (by simp [hp]) rfl⟩, rfl, .inr ho, .inl rfl⟩
  · exact .respond s _
  · exact { EngineKeeps.returnCode (op := op) (s := s.draw) hc (by simp [hp]) _ with }
  · exact { EngineKeeps.respond (op := op) s.draw _ with }

theorem execBuild_keeps (he : execBuild i s = .next t) : EngineKeeps op s t := by
  obtain ⟨c, hc, hcase⟩ := execBuild_next he
  rcases hcase with ⟨-, rfl⟩ | ⟨hp, -, rfl⟩
  · exact .respond s _
  · exact ⟨⟨rfl, rfl, rfl, rfl, .of_set hc (by simp [hp]) rfl⟩, rfl, .inl rfl, .inl rfl⟩

theorem execPost_keeps (he : execPost i s = .next t) : EngineKeeps (.post i) s t := by
  obtain ⟨c, hc, hcase⟩ := execPost_next he
  rcases hcase with ⟨-, rfl⟩ | ⟨hp, rfl⟩
  · exact .respond s _
  · exact ⟨⟨rfl, rfl, rfl, rfl, .of_set hc (by simp [hp]) rfl⟩, rfl, .inl rfl, .inr ⟨i, rfl, rfl⟩⟩

theorem execWait_keeps (he : execWait i s = .next t) : EngineKeeps op s t := by
  obtain ⟨c, hc, hcase⟩ := execWait_next he
  rcases hcase with ⟨-, rfl⟩ | ⟨hp, rfl⟩
  · exact .respond s _
  · exact ⟨⟨rfl, rfl, rfl, rfl, .of_set hc (by simp [hp]) rfl⟩, rfl, .inl rfl, .inl rfl⟩

theorem execWake_keeps (he : execWake i s = .next t) : EngineKeeps op s t := by
  obtain ⟨c, hc, hcase⟩ := execWake_next he
  rcases hcase with ⟨-, rfl⟩ | ⟨-, -, rfl⟩ | ⟨hp, -, code, -, rfl⟩
  · exact .respond s _
  · exact .respond s _
  · exact .returnCode hc (by simp [hp]) code

theorem giveVerdict_keeps {rsp : List Byte} {len : Half} (he : giveVerdict rsp len s = .next t) :
    DispatcherKeeps op s t := by
  obtain ⟨e, -, rfl⟩ := giveVerdict_next he
  exact .respond s _

theorem execReportRsp_keeps {rsp : List Byte} {len : Half} (he : execReportRsp rsp len s = .next t) :
    DispatcherKeeps (.reportRsp rsp len) s t := by
  obtain ⟨e, -, hcase⟩ := execReportRsp_next he
  rcases hcase with ⟨i, c, ha, hc, rfl⟩ | ⟨-, rfl⟩
  · exact .report ha hc _ _
  · have hop : ReportOf (.reportRsp rsp len) .rsp := ⟨rsp, len, rfl⟩
    exact .discardReport hop _

theorem execReportExc_keeps {code : Exc} (he : execReportExc code s = .next t) :
    DispatcherKeeps (.reportExc code) s t := by
  rcases execReportExc_next he with ⟨i, c, ha, hc, -, rfl⟩ | ⟨-, rfl⟩
  · exact .report ha hc _ _
  · have hop : ReportOf (.reportExc code) .exc := ⟨code, rfl⟩
    exact .discardReport hop _

theorem execReportTmo_keeps (he : execReportTmo s = .next t) : DispatcherKeeps .reportTmo s t := by
  rcases execReportTmo_next he with ⟨i, c, ha, hc, rfl⟩ | ⟨-, rfl⟩
  · exact .report ha hc _ _
  · have hop : ReportOf Instr.reportTmo .tmo := rfl
    exact .discardReport hop _

theorem execRelease_keeps (he : execRelease s = .next t) : LockUserKeeps s t ∧ SameTx s t := by
  rcases execRelease_next he with ⟨i, -, -, rfl⟩ | ⟨-, rfl⟩
  · exact ⟨⟨⟨rfl, rfl, rfl, rfl, .of_eq rfl⟩, ⟨rfl, rfl⟩, rfl, rfl, rfl⟩, rfl, rfl, rfl⟩
  · exact ⟨.respond s _, rfl, rfl, rfl⟩

theorem execXacquire_keeps (he : execXacquire s = .next t) : LockUserKeeps s t := by
  rcases execXacquire_next he with ⟨-, rfl⟩ | ⟨-, rfl⟩
  · exact ⟨⟨rfl, rfl, rfl, rfl, .of_eq rfl⟩, ⟨rfl, rfl⟩, rfl, rfl, rfl⟩
  · exact .respond s _

theorem execXwrite_keeps {x : XTarget} (he : execXwrite x s = .next t) : LockUserKeeps s t := by
  rcases execXwrite_next he with ⟨-, ⟨off, b, -, -, rfl⟩ | ⟨v, -, rfl⟩ | ⟨v, -, rfl⟩⟩ | ⟨-, rfl⟩
  · exact ⟨⟨rfl, rfl, rfl, rfl, .of_eq rfl⟩, ⟨rfl, rfl⟩, rfl, rfl, rfl⟩
  · exact ⟨⟨rfl, rfl, rfl, rfl, .of_eq rfl⟩, ⟨rfl, rfl⟩, rfl, rfl, rfl⟩
  · exact ⟨⟨rfl, rfl, rfl, rfl, .of_eq rfl⟩, ⟨rfl, rfl⟩, rfl, rfl, rfl⟩
  · exact .respond s _

theorem execXrelease_keeps (he : execXrelease s = .next t) : LockUserKeeps s t := by
  rcases execXrelease_next he with ⟨-, rfl⟩ | ⟨-, rfl⟩
  · exact ⟨⟨rfl, rfl, rfl, rfl, .of_eq rfl⟩, ⟨rfl, rfl⟩, rfl, rfl, rfl⟩
  · exact .respond s _

/-- An operation that answers has an agent, and leaves alone what its agent must. -/
theorem exec_agentKeeps (he : exec op s = .next t) : ∃ a, initiator op = some a ∧ AgentKeeps op s t a := by
  cases op with
  | issue i slave baddr dptr dsize tmo => exact ⟨.caller, rfl, execIssue_keeps he⟩
  | acquire i => exact ⟨.engine, rfl, execAcquire_keeps he⟩
  | build i => exact ⟨.engine, rfl, execBuild_keeps he⟩
  | post i => exact ⟨.engine, rfl, execPost_keeps he⟩
  | wait i => exact ⟨.engine, rfl, execWait_keeps he⟩
  | wake i => exact ⟨.engine, rfl, execWake_keeps he⟩
  | validate rsp len => exact ⟨.dispatcher, rfl, giveVerdict_keeps he⟩
  | reportRsp rsp len => exact ⟨.dispatcher, rfl, execReportRsp_keeps he⟩
  | reportExc code => exact ⟨.dispatcher, rfl, execReportExc_keeps he⟩
  | reportTmo => exact ⟨.dispatcher, rfl, execReportTmo_keeps he⟩
  | release => exact ⟨.completionPath, rfl, execRelease_keeps he⟩
  | xacquire => exact ⟨.otherRequester, rfl, execXacquire_keeps he⟩
  | xwrite x => exact ⟨.otherRequester, rfl, execXwrite_keeps he⟩
  | xrelease => exact ⟨.otherRequester, rfl, execXrelease_keeps he⟩
  | txread =>
    obtain ⟨r, rfl, -⟩ := execTxread_next he
    exact ⟨.dispatcher, rfl, .respond s r⟩
  | reservedOpidF => cases he
  | wbreq i slave baddr dptr dsize tmo => exact ⟨.caller, rfl, execWbreq_keeps he⟩
  | reqFrame fc baddr count data =>
    obtain ⟨same, rfl⟩ := execReqFrame_next he
    exact ⟨.dispatcher, rfl, .respond s _⟩
  | rspFrame fc written => exact ⟨.dispatcher, rfl, giveVerdict_keeps he⟩

theorem exec_keeps_of_initiator {a : Agent} (he : exec op s = .next t) (ha : initiator op = some a) :
    AgentKeeps op s t a := by
  obtain ⟨b, hb, hk⟩ := exec_agentKeeps he
  exact Option.some.inj (hb.symm.trans ha) ▸ hk

theorem AgentKeeps.opKeeps {a : Agent} (h : AgentKeeps op s t a) : OpKeeps s t := by
  cases a with
  | caller => exact CallerKeeps.toOpKeeps h
  | engine => exact EngineKeeps.toOpKeeps h
  | dispatcher => exact DispatcherKeeps.toOpKeeps h
  | completionPath => exact h.1.toOpKeeps
  | otherRequester => exact LockUserKeeps.toOpKeeps h

theorem exec_opKeeps (he : exec op s = .next t) : OpKeeps s t := by
  obtain ⟨a, -, hk⟩ := exec_agentKeeps he
  exact hk.opKeeps

/-- The other requester's operations leave `LOCK.REPORTED`: `XACQUIRE` clears it where it is clear already (I-4). -/
theorem Invariant.otherRequester_lockReported (h : Invariant s) (he : exec op s = .next t)
    (ha : initiator op = some .otherRequester) : t.lockReported = s.lockReported := by
  cases op with
  | xacquire =>
    rcases execXacquire_next he with ⟨ho, rfl⟩ | ⟨-, rfl⟩
    · exact (h.lockReported_false (by simp [ho])).symm
    · rfl
  | xwrite x =>
    rcases execXwrite_next he with ⟨-, ⟨_, _, -, -, rfl⟩ | ⟨_, -, rfl⟩ | ⟨_, -, rfl⟩⟩ | ⟨-, rfl⟩ <;> rfl
  | xrelease => rcases execXrelease_next he with ⟨-, rfl⟩ | ⟨-, rfl⟩ <;> rfl
  | _ => cases ha

/-- Settles O53: agent by agent, what `exec_agentKeeps` says; `LOCK.REPORTED` under the other requester needs I-4. -/
theorem agentsKeepToTheirRights : Obligations.AgentsKeepToTheirRights := by
  intro s t op h he
  have hop := exec_opKeeps he
  refine ⟨hop.cfg, hop.cdata, hop.inputs, hop.epoch, fun ha => ?_, fun ha => ?_, fun ha => ?_, fun ha => ?_, fun ha => ?_⟩
  · have hk : CallerKeeps s t := exec_keeps_of_initiator he ha
    exact ⟨hk.lock, hk.tx, hk.pend, hk.evlog⟩
  · have hk : EngineKeeps op s t := exec_keeps_of_initiator he ha
    exact ⟨hk.fault, hk.owner⟩
  · have hk : DispatcherKeeps op s t := exec_keeps_of_initiator he ha
    exact ⟨hk.owner, hk.tx, hk.count, hk.fault, hk.calls⟩
  · obtain ⟨hk, htx⟩ : LockUserKeeps s t ∧ SameTx s t := exec_keeps_of_initiator he ha
    exact ⟨htx, hk.pend, hk.ctxs, hk.fault, hk.evlog⟩
  · have hk : LockUserKeeps s t := exec_keeps_of_initiator he ha
    exact ⟨h.otherRequester_lockReported he ha, hk.pend, hk.ctxs, hk.fault, hk.evlog⟩

/-- Settles O52: the caller, the completion path and the other requester leave `EVLOG`; the engine adds to it in `POST`, the
dispatcher in a discarded report. -/
theorem eventLogOnlyGrows : Obligations.EventLogOnlyGrows := by
  intro s t op he
  obtain ⟨a, -, hk⟩ := exec_agentKeeps he
  cases a with
  | caller => exact .inl (CallerKeeps.evlog hk)
  | engine => exact (EngineKeeps.evlog hk).imp_right .inl
  | dispatcher =>
    rcases DispatcherKeeps.evlog hk with hev | ⟨kind, hop, hev⟩
    · exact .inl hev
    · cases kind with
      | rsp =>
        obtain ⟨rsp, len, rfl⟩ := hop
        exact .inr (.inr (.inl ⟨rsp, len, rfl, hev⟩))
      | exc =>
        obtain ⟨code, rfl⟩ := hop
        exact .inr (.inr (.inr (.inl ⟨code, rfl, hev⟩)))
      | tmo => exact .inr (.inr (.inr (.inr ⟨hop, hev⟩)))
  | completionPath => exact .inl hk.1.evlog
  | otherRequester => exact .inl (LockUserKeeps.evlog hk)

/-! ### `FAULT` -/

/-- A call entry that changes `FAULT` finds it clear, and `CAPCHK` says why (R72, R93). -/
theorem enterCall_fault {acc : Ctx → State} {slave : Byte} {dptr : Nat} {dsize : Half}
    (he : enterCall acc i slave dptr dsize s = .next t) (hacc : ∀ c, (acc c).fault = s.fault) (hne : t.fault ≠ s.fault) :
    s.fault = .none ∧ ((capchk s.cfg dptr dsize = .capacity ∧ t.fault = .capacity i) ∨
      (capchk s.cfg dptr dsize = .pointer ∧ t.fault = .pointer i)) := by
  obtain ⟨c, -, hcase⟩ := enterCall_next he
  have hraise : ∀ f, (raiseFault i c f s).fault = if s.fault = .none then f else s.fault := fun _ => rfl
  rcases hcase with ⟨-, rfl⟩ | ⟨-, -, rfl⟩ | ⟨-, -, hk, rfl⟩ | ⟨-, -, hk, rfl⟩ | ⟨-, -, -, rfl⟩
  · exact absurd rfl hne
  · exact absurd rfl hne
  · have hs : s.fault = .none := Decidable.byContradiction fun hs => hne (by simp [hraise, hs])
    exact ⟨hs, .inl ⟨hk, by simp [hraise, hs]⟩⟩
  · have hs : s.fault = .none := Decidable.byContradiction fun hs => hne (by simp [hraise, hs])
    exact ⟨hs, .inr ⟨hk, by simp [hraise, hs]⟩⟩
  · exact absurd (hacc c) hne

/-- `FAULT` changes in a call entry only (R102): every other agent's operations leave it. -/
theorem initiator_of_fault_ne (he : exec op s = .next t) (hne : t.fault ≠ s.fault) : initiator op = some .caller := by
  obtain ⟨a, ha, hk⟩ := exec_agentKeeps he
  cases a with
  | caller => exact ha
  | engine => exact absurd (EngineKeeps.fault hk) hne
  | dispatcher => exact absurd (DispatcherKeeps.fault hk) hne
  | completionPath => exact absurd hk.1.fault hne
  | otherRequester => exact absurd (LockUserKeeps.fault hk) hne

theorem exec_fault_ne (he : exec op s = .next t) (hne : t.fault ≠ s.fault) :
    s.fault = .none ∧ ∃ k slave baddr dptr dsize tmo,
      (op = .issue k slave baddr dptr dsize tmo ∨ op = .wbreq k slave baddr dptr dsize tmo) ∧
      ((capchk s.cfg dptr dsize = .capacity ∧ t.fault = .capacity k) ∨
        (capchk s.cfg dptr dsize = .pointer ∧ t.fault = .pointer k)) := by
  have ha := initiator_of_fault_ne he hne
  cases op with
  | issue k slave baddr dptr dsize tmo =>
    obtain ⟨hs, hcap⟩ := enterCall_fault he (fun _ => rfl) hne
    exact ⟨hs, k, slave, baddr, dptr, dsize, tmo, .inl rfl, hcap⟩
  | wbreq k slave baddr dptr dsize tmo =>
    obtain ⟨hs, hcap⟩ := enterCall_fault he (fun _ => rfl) hne
    exact ⟨hs, k, slave, baddr, dptr, dsize, tmo, .inr rfl, hcap⟩
  | _ => cases ha

/-- What a fault leaves for good: a recorded fault, and a context in `FAULTED`. -/
def FaultKept (s t : State) : Prop := (s.fault ≠ .none → t.fault = s.fault) ∧ KeepsFaulted s t

theorem FaultKept.of_eq (hf : t.fault = s.fault) (hc : t.ctxs = s.ctxs) : FaultKept s t := ⟨fun _ => hf, .of_eq hc⟩

theorem exec_faultKept (he : exec op s = .next t) : FaultKept s t :=
  ⟨fun hs => Decidable.byContradiction fun hne => hs (exec_fault_ne he hne).1, (exec_opKeeps he).faulted⟩

theorem present_faultKept {x : Input} (hx : x ≠ .reset) (he : present x s = .next t) : FaultKept s t := by
  rcases present_next he with ⟨f, bytes, op, -, -, -, hexec⟩ | ⟨a, b, -, -, rfl⟩ | ⟨hreset, -⟩
  · exact exec_faultKept hexec
  · exact .of_eq rfl rfl
  · exact absurd hreset hx

theorem engineTurn_faultKept (he : engineTurn s = .next t) : FaultKept s t := by
  rcases engineTurn_next he with ⟨-, rfl⟩ | ⟨i, rest, -, ⟨c, op, -, -, hexec⟩ | rfl⟩
  · exact .of_eq rfl rfl
  · exact exec_faultKept (s := { s with calls := rest ++ [i] }) hexec
  · exact .of_eq rfl rfl

/-- Settles O50: `exec_fault_ne` for the operations, and `FaultKept` for every step but reset. -/
theorem faultIsSticky : Obligations.FaultIsSticky := by
  refine ⟨fun s t op he hne => exec_fault_ne he hne, fun s t he hreset => ?_⟩
  rcases step_next he with ⟨x, rest, hin, hx⟩ | ⟨-, hturn⟩
  · have hne : x ≠ .reset := fun hxr => hreset (by simp [hin, hxr])
    exact present_faultKept (s := { s with inputs := rest }) hne hx
  · exact engineTurn_faultKept hturn

end Sys2Proof.Safety
end


/-! ## The codes of the status registers -/
section

namespace Sys2Proof.Machine

/-! ### The register value a code stands for: a left inverse of each table, so that codes tell the values apart -/

/-- The value of `STATE[i]` (R27); code 6 is reserved. -/
def Phase.ofCode (b : BitVec 3) : Phase :=
  if b = 0 then .idle
  else if b = 1 then .acquiring
  else if b = 2 then .serializing
  else if b = 3 then .locked
  else if b = 4 then .sent
  else if b = 5 then .awaiting
  else .faulted

/-- The value of `OUTCOME[i]` (R29). -/
def OutcomeReg.ofCode (b : BitVec 2) : OutcomeReg :=
  if b = 0 then .empty
  else if b = 1 then .success
  else if b = 2 then .protocolException
  else .timeout

/-- The value of `RESULT[i]` (R99); codes 5 to 7 are reserved. -/
def ErrorCode.ofCode (b : BitVec 3) : ErrorCode :=
  if b = 0 then .noError
  else if b = 1 then .illegalArgument
  else if b = 2 then .masterBusy
  else if b = 3 then .timeout
  else .protocolException

@[simp] theorem Phase.ofCode_code (p : Phase) : Phase.ofCode p.code = p := by cases p <;> rfl

@[simp] theorem OutcomeReg.ofCode_code (o : OutcomeReg) : OutcomeReg.ofCode o.code = o := by cases o <;> rfl

@[simp] theorem ErrorCode.ofCode_code (e : ErrorCode) : ErrorCode.ofCode e.code = e := by cases e <;> rfl

theorem Phase.code_injective : Function.Injective Phase.code := Function.LeftInverse.injective Phase.ofCode_code

theorem OutcomeReg.code_injective : Function.Injective OutcomeReg.code :=
  Function.LeftInverse.injective OutcomeReg.ofCode_code

theorem ErrorCode.code_injective : Function.Injective ErrorCode.code :=
  Function.LeftInverse.injective ErrorCode.ofCode_code

/-- Code 6 of `STATE` is reserved (R27). -/
theorem Phase.code_ne_reserved (p : Phase) : p.code ≠ 6 := by cases p <;> decide

/-- Codes 5 to 7 of `RESULT` are reserved (R99). -/
theorem ErrorCode.code_lt (e : ErrorCode) : e.code.toNat < 5 := by cases e <;> decide

theorem Owner.code_injective : Function.Injective Owner.code := by
  intro p q h
  cases p <;> cases q <;> simp only [Owner.code] at h <;> simp <;> omega

/-- An owner that exists fits the width of `LOCK.OWNER` (R19): `NCTX + 2` codes need `ceil(log2(NCTX + 2))` bits. -/
theorem Owner.code_lt (cfg : Config) (p : Owner) (hp : ∀ i, p = .ctx i → i < cfg.nctx) :
    p.code < 2 ^ Owner.width cfg := by
  have hcode : p.code < cfg.nctx + 2 := by
    cases p with
    | none => simp [Owner.code]
    | ext => simp [Owner.code]
    | ctx i => simpa [Owner.code] using hp i rfl
  exact Nat.lt_of_lt_of_le hcode (Nat.le_pow_clog Nat.one_lt_two _)

/-- Kind 3 of `FAULT` is reserved (R26). -/
theorem FaultReg.kind_ne_reserved (f : FaultReg) : f.kind ≠ 3 := by cases f <;> simp [FaultReg.kind]

/-- A fault is its kind and its context (R26). -/
theorem FaultReg.eq_of_kind_context {f g : FaultReg} (hk : f.kind = g.kind) (hc : f.context = g.context) : f = g := by
  cases f <;> cases g <;> simp_all [FaultReg.kind, FaultReg.context]

/-- Settles O7: the tables by computation, and the lemmas above. -/
theorem statusCodesAreDistinct : Obligations.StatusCodesAreDistinct :=
  ⟨⟨rfl, rfl, rfl, rfl, rfl, rfl, rfl⟩, ⟨rfl, rfl, rfl, rfl⟩, ⟨rfl, rfl, rfl, rfl, rfl⟩, ⟨rfl, rfl, fun _ => rfl⟩,
    ⟨rfl, rfl, fun _ => ⟨rfl, rfl⟩, fun _ => ⟨rfl, rfl⟩⟩,
    fun _ _ h => Phase.code_injective h, Phase.code_ne_reserved, fun _ _ h => OutcomeReg.code_injective h,
    fun _ _ h => ErrorCode.code_injective h, ErrorCode.code_lt, fun _ _ h => Owner.code_injective h, Owner.code_lt,
    FaultReg.kind_ne_reserved, fun _ _ => FaultReg.eq_of_kind_context⟩

end Sys2Proof.Machine
end

/-! ## Presented inputs and reset values -/
section

namespace Sys2Proof.Machine

variable {s : State}

theorem present_inputOf (f : Format) (bytes : List Byte) (s : State) : present (inputOf f bytes) s = runBytes f bytes s := by
  cases f <;> rfl

theorem runBytes_of_legal {f : Format} {bytes : List Byte} {i : Instr} (hd : decodeAll f bytes = .ok i)
    (hl : i.legal s.cfg = true) : runBytes f bytes s = exec i s := by
  simp [runBytes, hd, hl]

theorem step_of_inputs {x : Input} {rest : List Input} (h : s.inputs = x :: rest) :
    step s = present x { s with inputs := rest } := by
  simp [step, h]

/-- Settles O34. -/
theorem stepRunsPresentedInstruction : Obligations.StepRunsPresentedInstruction := by
  intro s f bytes rest i hin hd hl
  calc step s = present (inputOf f bytes) { s with inputs := rest } := step_of_inputs hin
    _ = runBytes f bytes { s with inputs := rest } := present_inputOf f bytes _
    _ = exec i { s with inputs := rest } := runBytes_of_legal hd hl

theorem dataHeld_iff (s : State) (a : Nat) : dataHeld s a = true ↔
    ∃ c ∈ s.ctxs, (c.phase = .acquiring ∨ c.phase = .serializing) ∧
      c.arg.dptr ≤ a ∧ a < c.arg.dptr + c.arg.dsize.toNat := by
  simp [dataHeld]

theorem callerWrite_held {a : Nat} {b : Byte} (ha : a < 2 ^ s.cfg.ptrW) (h : dataHeld s a = true) :
    callerWrite a b s = .refused .callerDataHeld := by
  simp [callerWrite, Nat.not_le.2 ha, h]

theorem callerWrite_free {a : Nat} {b : Byte} (ha : a < 2 ^ s.cfg.ptrW) (h : ¬ dataHeld s a = true) :
    callerWrite a b s = .next { s with cdata := s.cdata.set a b } := by
  simp [callerWrite, Nat.not_le.2 ha, h]

/-- A byte of `CDATA` after one byte was written. -/
theorem State.cdataByte_set (s : State) (a x : Nat) (b : Byte) :
    State.cdataByte { s with cdata := s.cdata.set a b } x = if x = a then b else s.cdataByte x := by
  by_cases h : x = a
  · simp [State.cdataByte, h]
  · simp [State.cdataByte, h, Memory.get_set_other s.cdata b h]

/-- Settles O39: `dataHeld` says whose byte it is, and a byte memory changes at one address only. -/
theorem callerWriteChangesOneByte : Obligations.CallerWriteChangesOneByte := by
  intro s a b rest hin ha
  have hstep : step s = callerWrite a b { s with inputs := rest } := step_of_inputs hin
  refine ⟨fun hheld => ?_, fun hfree => ?_⟩
  · exact hstep.trans (callerWrite_held ha ((dataHeld_iff _ a).2 hheld))
  · have hnot : ¬ dataHeld { s with inputs := rest } a = true := fun h => by
      obtain ⟨c, hc, hp, hr⟩ := (dataHeld_iff _ a).1 h
      exact hfree c hc hp hr
    refine ⟨_, hstep.trans (callerWrite_free ha hnot), rfl, ?_, fun x hx => ?_⟩
    · exact (State.cdataByte_set { s with inputs := rest } a a b).trans (if_pos rfl)
    · exact (State.cdataByte_set { s with inputs := rest } a x b).trans (if_neg hx)

theorem resetWith_ctx (cfg : Config) {i : Nat} (hi : i < cfg.nctx) :
    (State.resetWith cfg).ctxs[i]? = some Ctx.reset := by
  simp [State.resetWith, hi]

/-- No byte of `TXBUF` is written at reset (R21, R35). -/
theorem resetWith_txByte (cfg : Config) (off : Nat) : (State.resetWith cfg).txByte off = Config.txbufByte 0 off := rfl

/-- Settles O40. -/
theorem resetValues : Obligations.ResetValues := fun cfg =>
  ⟨rfl, rfl, rfl, rfl, rfl, rfl, rfl, rfl, fun _ hi => ⟨Ctx.reset, resetWith_ctx cfg hi, rfl, rfl, rfl, rfl⟩,
    resetWith_txByte cfg⟩

end Sys2Proof.Machine
end

/-! ## Byte order, and the shared transmit state -/
section

namespace Sys2Proof.Machine

/-- R39's formula for `UBE16`, on the 16-bit values. -/
theorem ube16_eq (b0 b1 : Byte) : ube16 b0 b1 = b0.zeroExtend 16 * 256 + b1.zeroExtend 16 := by
  apply BitVec.eq_of_toNat_eq
  rw [ube16_toNat]
  have h0 := b0.isLt
  have h1 := b1.isLt
  simp only [BitVec.toNat_add, BitVec.toNat_mul, BitVec.truncate_eq_setWidth, BitVec.toNat_setWidth, BitVec.reduceToNat]
  omega

/-- Settles O5: the two layouts by definition, and the laws of `UBE16`. -/
theorem bigEndianByteOrder : Obligations.BigEndianByteOrder :=
  ⟨fun _ => rfl, fun _ => rfl, ube16_eq, fun v => ⟨v.extractLsb' 8 8, v.extractLsb' 0 8, rfl, ube16_be16 v⟩⟩

/-- What `BUILD` stores reads as the request where the request reaches, and as before where it does not (R43, R49). -/
theorem buildRequest_txByte (i : Nat) (c : Ctx) (s : State) (off : Nat) :
    (buildRequest i c s).txByte off = (requestBytes s c.arg)[off]?.getD (s.txByte off) := by
  simp [buildRequest, State.txByte_setTx_write]

/-- Settles O18: a refused `BUILD` keeps every byte, and one that is done stores no byte above its request. -/
theorem buildKeepsTheTail : Obligations.BuildKeepsTheTail := by
  intro s t i c hc he off hoff
  obtain ⟨d, hd, ⟨-, rfl⟩ | ⟨-, -, rfl⟩⟩ := execBuild_next he
  · rfl
  · cases hc.symm.trans hd
    rw [buildRequest_txByte, List.getElem?_eq_none hoff, Option.getD_none]

end Sys2Proof.Machine

namespace Sys2Proof.Safety

open Sys2Proof.Machine

variable {s t u : State} {op : Instr}

/-- A write to the shared transmit state that R54 permits: `BUILD` by a `SERIALIZING` context, or `XWRITE` under `EXT`. -/
def TxWrite (s : State) (op : Instr) : Prop :=
  (∃ (k : Nat) (c : Ctx), op = .build k ∧ s.ctxs[k]? = some c ∧ c.phase = .serializing) ∨
    (∃ x, op = .xwrite x ∧ s.lockOwner = .ext)

theorem engine_tx_cases (he : exec op s = .next t) (ha : initiator op = some .engine) : SameTx s t ∨ TxWrite s op := by
  cases op with
  | acquire i =>
    obtain ⟨c, -, ⟨-, rfl⟩ | ⟨-, -, rfl⟩ | ⟨-, -, -, rfl⟩ | ⟨-, -, -, rfl⟩ | ⟨-, -, -, rfl⟩⟩ := execAcquire_next he <;>
      exact .inl ⟨rfl, rfl, rfl⟩
  | build i =>
    obtain ⟨c, hc, ⟨-, rfl⟩ | ⟨hp, -, -⟩⟩ := execBuild_next he
    · exact .inl ⟨rfl, rfl, rfl⟩
    · exact .inr (.inl ⟨i, c, rfl, hc, hp⟩)
  | post i => obtain ⟨c, -, ⟨-, rfl⟩ | ⟨-, rfl⟩⟩ := execPost_next he <;> exact .inl ⟨rfl, rfl, rfl⟩
  | wait i => obtain ⟨c, -, ⟨-, rfl⟩ | ⟨-, rfl⟩⟩ := execWait_next he <;> exact .inl ⟨rfl, rfl, rfl⟩
  | wake i =>
    obtain ⟨c, -, ⟨-, rfl⟩ | ⟨-, -, rfl⟩ | ⟨-, -, code, -, rfl⟩⟩ := execWake_next he <;> exact .inl ⟨rfl, rfl, rfl⟩
  | _ => cases ha

theorem otherRequester_tx_cases (he : exec op s = .next t) (ha : initiator op = some .otherRequester) :
    SameTx s t ∨ TxWrite s op := by
  cases op with
  | xacquire => rcases execXacquire_next he with ⟨-, rfl⟩ | ⟨-, rfl⟩ <;> exact .inl ⟨rfl, rfl, rfl⟩
  | xwrite x =>
    rcases execXwrite_next he with ⟨ho, -⟩ | ⟨-, rfl⟩
    · exact .inr (.inr ⟨x, rfl, ho⟩)
    · exact .inl ⟨rfl, rfl, rfl⟩
  | xrelease => rcases execXrelease_next he with ⟨-, rfl⟩ | ⟨-, rfl⟩ <;> exact .inl ⟨rfl, rfl, rfl⟩
  | _ => cases ha

/-- Every operation leaves the shared transmit state, unless it is a write that R54 permits. -/
theorem exec_tx_cases (he : exec op s = .next t) : SameTx s t ∨ TxWrite s op := by
  obtain ⟨a, ha, hk⟩ := exec_agentKeeps he
  cases a with
  | caller => exact .inl (CallerKeeps.tx hk)
  | engine => exact engine_tx_cases he ha
  | dispatcher => exact .inl (DispatcherKeeps.tx hk)
  | completionPath => exact .inl hk.2
  | otherRequester => exact otherRequester_tx_cases he ha

/-- Settles O47: `exec_tx_cases`, and a `SERIALIZING` context is in flight, so it owns the slot (I-1). -/
theorem singleWriterOfTransmitState : Obligations.SingleWriterOfTransmitState := by
  intro s t op h he hne
  rcases (exec_tx_cases he).resolve_left hne with ⟨k, c, hop, hc, hp⟩ | hx
  · exact .inl ⟨k, c, hop, hc, hp, (h.inFlightOwns k c hc (.inl hp)).1⟩
  · exact .inr hx

/-- The shared transmit state reads the same: the written bytes, and the reset that drew the unwritten ones (R21). -/
structure TxReadsSame (s t : State) : Prop where
  tx : SameTx s t
  epoch : t.epoch = s.epoch

theorem TxReadsSame.txByte (h : TxReadsSame s t) (off : Nat) : t.txByte off = s.txByte off := by
  obtain ⟨⟨hbuf, -, -⟩, hepoch⟩ := h
  simp only [State.txByte, hbuf, hepoch]

theorem TxReadsSame.trans (h : TxReadsSame s u) (h' : TxReadsSame u t) : TxReadsSame s t := by
  obtain ⟨⟨hbuf, hlen, hdest⟩, hepoch⟩ := h
  obtain ⟨⟨hbuf', hlen', hdest'⟩, hepoch'⟩ := h'
  exact ⟨⟨hbuf'.trans hbuf, hlen'.trans hlen, hdest'.trans hdest⟩, hepoch'.trans hepoch⟩

/-- Neither `BUILD` nor `XWRITE`: the only operations that write the shared transmit state (R54). -/
def NoTxWrite (op : Instr) : Prop := (∀ k, op ≠ .build k) ∧ (∀ x, op ≠ .xwrite x)

theorem NoTxWrite.not_txWrite (h : NoTxWrite op) : ¬ TxWrite s op := by
  rintro (⟨k, c, hop, -⟩ | ⟨x, hop, -⟩)
  · exact h.1 k hop
  · exact h.2 x hop

theorem exec_txReadsSame (hop : NoTxWrite op) (he : exec op s = .next t) : TxReadsSame s t :=
  ⟨(exec_tx_cases he).resolve_right hop.not_txWrite, (exec_opKeeps he).epoch⟩

/-- A sequence of operations that completes is its first operation, completed, and the rest from there. -/
theorem runOps_cons_some {r : List Instr} (h : runOps (op :: r) s = some t) :
    ∃ u, exec op s = .next u ∧ runOps r u = some t := by
  simp only [runOps] at h
  split at h
  · exact ⟨_, ‹_›, h⟩
  · cases h
  · cases h

theorem runOps_txReadsSame {ops : List Instr} (hops : ∀ op ∈ ops, NoTxWrite op) (h : runOps ops s = some t) :
    TxReadsSame s t := by
  induction ops generalizing s with
  | nil =>
    cases h
    exact ⟨⟨rfl, rfl, rfl⟩, rfl⟩
  | cons op r ih =>
    obtain ⟨hop, hr⟩ := List.forall_mem_cons.1 hops
    obtain ⟨u, he, hu⟩ := runOps_cons_some h
    exact (exec_txReadsSame hop he).trans (ih hr hu)

/-- Settles O22, by induction over the operations. -/
theorem transmitStateSurvives : Obligations.TransmitStateSurvives := by
  intro ops s t hops h
  have hsame := runOps_txReadsSame hops h
  exact ⟨hsame.tx, hsame.txByte⟩

end Sys2Proof.Safety
end

/-! ## The decoder and the encoder agree -/
section

namespace Sys2Proof

open Sys2Proof.Machine

/-! ### Decoding what was encoded -/

@[simp] theorem getCtx_putNat_self (f : Nat → Instr) (i : Nat) : getCtx f (putNat i) = .ok (f i, []) := by
  simpa using getCtx_putNat f i []

@[simp] theorem getCall_putCall_self (f : Nat → Byte → Word → Nat → Half → Word → Instr) (i : Nat) (slave : Byte)
    (baddr : Word) (dptr : Nat) (dsize : Half) (tmo : Word) :
    getCall f (putCall i slave baddr dptr dsize tmo) = .ok (f i slave baddr dptr dsize tmo, []) := by
  simpa using getCall_putCall f i slave baddr dptr dsize tmo []

@[simp] theorem get16_be16_self (v : Half) : get16 (be16 v) = some (v, []) := by
  simpa using get16_be16 v []

/-- A record is read as the operation of its identifier and form reads the operands. -/
theorem decode_record {form opid : BitVec 4} {r : List Byte} {i : Instr}
    (h : decodeOp opid.toNat form.toNat r = .ok (i, [])) : decode .op (head form opid :: r) = .ok (i, []) :=
  (decode_op_head form opid r).trans h

theorem decodeOp_xwrite_byte (off : Nat) (b : Byte) : decodeOp 0xC 0 (putNat off ++ [b]) = .ok (.xwrite (.byte off b), []) := by
  simp [decodeOp]

theorem decodeOp_xwrite_txlen (v : Half) : decodeOp 0xC 1 (be16 v) = .ok (.xwrite (.txlen v), []) := by
  simp [decodeOp]

/-- A request frame with as many data bytes as its count says is read back (R58, R62). -/
theorem decodeReq_reqBytes (fc : Byte) (baddr : Word) {count : Half} {data : List Byte} (h : data.length = count.toNat) :
    decodeReq (reqBytes fc baddr count data) = .ok (.reqFrame fc baddr count data, []) := by
  simp [decodeReq, reqBytes, ← h]

/-- A response frame is read back (R59). -/
theorem decodeRsp_rspFrame (fc : Byte) (written : Half) :
    decodeRsp (fc :: be16 written) = .ok (.rspFrame fc written, []) := by
  simp [decodeRsp, be16]

theorem decode_encode {i : Instr} (h : i.fits = true) : decode i.format (encode i) = .ok (i, []) := by
  cases i with
  | issue i slave baddr dptr dsize tmo => exact decode_record (getCall_putCall_self .issue i slave baddr dptr dsize tmo)
  | acquire i => exact decode_record (getCtx_putNat_self .acquire i)
  | build i => exact decode_record (getCtx_putNat_self .build i)
  | post i => exact decode_record (getCtx_putNat_self .post i)
  | wait i => exact decode_record (getCtx_putNat_self .wait i)
  | wake i => exact decode_record (getCtx_putNat_self .wake i)
  | validate rsp len => exact decode_record (getRsp_putRsp .validate rsp len)
  | reportRsp rsp len => exact decode_record (getRsp_putRsp .reportRsp rsp len)
  | reportExc code => exact decode_record rfl
  | reportTmo => exact decode_record rfl
  | release => exact decode_record rfl
  | xacquire => exact decode_record rfl
  | xwrite target =>
    cases target with
    | byte off b => exact decode_record (decodeOp_xwrite_byte off b)
    | txlen v => exact decode_record (decodeOp_xwrite_txlen v)
    | dest v => exact decode_record rfl
  | xrelease => exact decode_record rfl
  | txread => exact decode_record rfl
  | reservedOpidF => exact decode_record rfl
  | wbreq i slave baddr dptr dsize tmo => exact decode_record (getCall_putCall_self .wbreq i slave baddr dptr dsize tmo)
  | reqFrame fc baddr count data => exact decodeReq_reqBytes fc baddr (of_decide_eq_true h)
  | rspFrame fc written => exact decodeRsp_rspFrame fc written

theorem decodeAll_encode {i : Instr} (h : i.fits = true) : decodeAll i.format (encode i) = .ok i :=
  decodeAll_of_decode (decode_encode h)

/-- Settles O1: each field reader reads back what its writer wrote, constructor by constructor in `decode_encode`. -/
theorem decodeEncodeAgree : Obligations.DecodeEncodeAgree := fun _ => decodeAll_encode

/-! ### Encoding what was decoded -/

/-- `l` begins with the encoding of `i`, a well-formed instruction of format `f`, and `rest` follows. -/
structure Reencodes (f : Format) (l rest : List Byte) (i : Instr) : Prop where
  fits : i.fits = true
  format : i.format = f
  bytes : l = encode i ++ rest

/-- What is read as an operation of one operand is that operation, on what the operand's reader yields. -/
theorem getOne_ok {α : Type} (f : α → Instr) {o : Option (α × List Byte)} {rest : List Byte} {i : Instr}
    (h : orTruncated (o.map fun p => (f p.1, p.2)) = .ok (i, rest)) : ∃ v, i = f v ∧ o = some (v, rest) := by
  obtain ⟨⟨v, r⟩, hv, he⟩ := Option.map_eq_some_iff.1 (orTruncated_ok h)
  cases he
  exact ⟨v, rfl, hv⟩

/-- What is read as the operands of `XWRITE OFF, BYTE` is those, as they would be written. -/
theorem getXwriteByte_ok {r rest : List Byte} {i : Instr}
    (h : orTruncated ((getNat r).bind fun off => (get8 off.2).map fun b => (Instr.xwrite (.byte off.1 b.1), b.2)) =
      .ok (i, rest)) : ∃ off b, i = .xwrite (.byte off b) ∧ r = putNat off ++ [b] ++ rest := by
  have h := orTruncated_ok h
  simp only [Option.bind_eq_some_iff, Option.map_eq_some_iff, Prod.exists] at h
  obtain ⟨off, r1, h1, b, r2, h2, he⟩ := h
  cases he
  exact ⟨off, b, rfl, by simp [getNat_some h1, get8_some h2]⟩

/-- What is read as the operands of a record is those of the operation that byte 0 names. -/
theorem decodeOp_reencodes {b : Byte} {opid form : Nat} {r rest : List Byte} {i : Instr} (ho : b.toNat % 16 = opid)
    (hf : b.toNat / 16 = form) (h : decodeOp opid form r = .ok (i, rest)) : Reencodes .op (b :: r) rest i := by
  unfold decodeOp at h
  split at h
  · obtain ⟨n, slave, baddr, dptr, dsize, tmo, rfl, rfl⟩ := getCall_ok h
    exact ⟨rfl, rfl, congrArg (· :: _) (eq_head b 0 0x0 hf ho)⟩
  · obtain ⟨n, slave, baddr, dptr, dsize, tmo, rfl, rfl⟩ := getCall_ok h
    exact ⟨rfl, rfl, congrArg (· :: _) (eq_head b 1 0x0 hf ho)⟩
  · obtain ⟨n, rfl, rfl⟩ := getCtx_ok h
    exact ⟨rfl, rfl, congrArg (· :: _) (eq_head b 0 0x1 hf ho)⟩
  · obtain ⟨n, rfl, rfl⟩ := getCtx_ok h
    exact ⟨rfl, rfl, congrArg (· :: _) (eq_head b 0 0x2 hf ho)⟩
  · obtain ⟨n, rfl, rfl⟩ := getCtx_ok h
    exact ⟨rfl, rfl, congrArg (· :: _) (eq_head b 0 0x3 hf ho)⟩
  · obtain ⟨n, rfl, rfl⟩ := getCtx_ok h
    exact ⟨rfl, rfl, congrArg (· :: _) (eq_head b 0 0x4 hf ho)⟩
  · obtain ⟨n, rfl, rfl⟩ := getCtx_ok h
    exact ⟨rfl, rfl, congrArg (· :: _) (eq_head b 0 0x5 hf ho)⟩
  · obtain ⟨rsp, len, rfl, rfl⟩ := getRsp_ok h
    exact ⟨rfl, rfl, congrArg (· :: _) (eq_head b 0 0x6 hf ho)⟩
  · obtain ⟨rsp, len, rfl, rfl⟩ := getRsp_ok h
    exact ⟨rfl, rfl, congrArg (· :: _) (eq_head b 0 0x7 hf ho)⟩
  · obtain ⟨code, rfl, h1⟩ := getOne_ok .reportExc h
    rw [get8_some h1]
    exact ⟨rfl, rfl, congrArg (· :: _) (eq_head b 0 0x8 hf ho)⟩
  · cases h
    exact ⟨rfl, rfl, congrArg (· :: _) (eq_head b 0 0x9 hf ho)⟩
  · cases h
    exact ⟨rfl, rfl, congrArg (· :: _) (eq_head b 0 0xA hf ho)⟩
  · cases h
    exact ⟨rfl, rfl, congrArg (· :: _) (eq_head b 0 0xB hf ho)⟩
  · obtain ⟨off, v, rfl, rfl⟩ := getXwriteByte_ok h
    exact ⟨rfl, rfl, congrArg (· :: _) (eq_head b 0 0xC hf ho)⟩
  · obtain ⟨v, rfl, h1⟩ := getOne_ok (fun v => .xwrite (.txlen v)) h
    rw [get16_some h1]
    exact ⟨rfl, rfl, congrArg (· :: _) (eq_head b 1 0xC hf ho)⟩
  · obtain ⟨v, rfl, h1⟩ := getOne_ok (fun v => .xwrite (.dest v)) h
    rw [get8_some h1]
    exact ⟨rfl, rfl, congrArg (· :: _) (eq_head b 2 0xC hf ho)⟩
  · cases h
    exact ⟨rfl, rfl, congrArg (· :: _) (eq_head b 0 0xD hf ho)⟩
  · cases h
    exact ⟨rfl, rfl, congrArg (· :: _) (eq_head b 0 0xE hf ho)⟩
  · cases h
    exact ⟨rfl, rfl, congrArg (· :: _) (eq_head b 0 0xF hf ho)⟩
  · cases h

theorem decode_op_reencodes {l rest : List Byte} {i : Instr} (h : decode .op l = .ok (i, rest)) :
    Reencodes .op l rest i := by
  cases l with
  | nil => cases h
  | cons b r => exact decodeOp_reencodes rfl rfl h

theorem decodeReq_reencodes {l rest : List Byte} {i : Instr} (h : decodeReq l = .ok (i, rest)) :
    Reencodes .req l rest i := by
  have h := orTruncated_ok h
  simp only [Option.bind_eq_some_iff, Option.map_eq_some_iff, Prod.exists] at h
  obtain ⟨fc, r1, h1, baddr, r2, h2, count, r3, h3, data, r4, h4, he⟩ := h
  cases he
  obtain ⟨hlen, hdata⟩ := getBytes_some h4
  exact ⟨decide_eq_true hlen, rfl, by simp [encode, reqBytes, get8_some h1, get32_some h2, get16_some h3, hdata]⟩

/-- Every interface but that of the responses, where `VALIDATE` stands for a response that is no frame. -/
theorem decodeAll_reencodes {f : Format} {bytes : List Byte} {i : Instr} (hf : f ≠ .rsp)
    (h : decodeAll f bytes = .ok i) : Reencodes f bytes [] i := by
  cases f with
  | op => exact decode_op_reencodes (decodeAll_ok h)
  | req => exact decodeReq_reencodes (decodeAll_ok h)
  | rsp => exact absurd rfl hf

/-- Settles O2. -/
theorem decodedBytesReencode : Obligations.DecodedBytesReencode := by
  intro f bytes i hf h
  obtain ⟨hfits, hformat, hbytes⟩ := decodeAll_reencodes hf h
  exact ⟨hfits, hformat, by simpa using hbytes.symm⟩

/-- A response is read by its length: as its frame, or as a `VALIDATE` of all its bytes (R59, R64). -/
theorem decodeRsp_ok {l rest : List Byte} {i : Instr} (h : decodeRsp l = .ok (i, rest)) :
    (∃ fc hi lo, l = [fc, hi, lo] ∧ i = .rspFrame fc (ube16 hi lo)) ∨
      (l.length ≠ 3 ∧ ∃ len : Half, len.toNat = l.length ∧ i = .validate l len) := by
  unfold decodeRsp at h
  split at h
  · cases h
    exact .inl ⟨_, _, _, rfl, rfl⟩
  · rename_i hnot
    split at h
    · rename_i hlen
      cases h
      have hlen3 : l.length ≠ 3 := fun h3 => by
        obtain ⟨fc, hi, lo, rfl⟩ := List.length_eq_three.1 h3
        exact hnot fc hi lo rfl
      exact .inr ⟨hlen3, _, (BitVec.toNat_ofNat _ _).trans (Nat.mod_eq_of_lt hlen), rfl⟩
    · cases h

/-- Settles O3: operation records and request frames by what they encode to, responses by their length. -/
theorem decodedIsWellFormed : Obligations.DecodedIsWellFormed := by
  intro f bytes i h
  by_cases hf : f = .rsp
  · subst hf
    have hcase := decodeRsp_ok (decodeAll_ok h)
    refine ⟨?_, fun _ => hcase⟩
    rcases hcase with ⟨fc, hi, lo, -, rfl⟩ | ⟨-, len, -, rfl⟩ <;> rfl
  · exact ⟨(decodeAll_reencodes hf h).fits, fun hr => absurd hr hf⟩

/-! ### The identifier in the first byte -/

/-- Bits 3..0 of byte 0 are the identifier (R67). -/
@[simp] theorem head_extractLsb'_opid (form opid : BitVec 4) : (head form opid).extractLsb' 0 4 = opid := by
  apply BitVec.eq_of_toNat_eq
  have ho := opid.isLt
  rw [BitVec.extractLsb'_toNat, head_toNat, Nat.shiftRight_zero]
  omega

theorem header_statement (i : Instr) : Laws.Header.Statement i := by
  cases i with
  | issue i slave baddr dptr dsize tmo => exact Laws.Header.issue i slave baddr dptr dsize tmo
  | acquire i => exact Laws.Header.acquire i
  | build i => exact Laws.Header.build i
  | post i => exact Laws.Header.post i
  | wait i => exact Laws.Header.wait i
  | wake i => exact Laws.Header.wake i
  | validate rsp len => exact Laws.Header.validate rsp len
  | reportRsp rsp len => exact Laws.Header.reportRsp rsp len
  | reportExc code => exact Laws.Header.reportExc code
  | reportTmo => exact Laws.Header.reportTmo
  | release => exact Laws.Header.release
  | xacquire => exact Laws.Header.xacquire
  | xwrite target => exact Laws.Header.xwrite target
  | xrelease => exact Laws.Header.xrelease
  | txread => exact Laws.Header.txread
  | reservedOpidF => exact Laws.Header.reservedOpidF
  | wbreq i slave baddr dptr dsize tmo => exact Laws.Header.wbreq i slave baddr dptr dsize tmo
  | reqFrame fc baddr count data => exact Laws.Header.reqFrame fc baddr count data
  | rspFrame fc written => exact Laws.Header.rspFrame fc written

/-- An operation stands under its own identifier, whatever its form. -/
theorem encode_of_opid {i : Instr} {op : BitVec 4} (h : i.opid = some op) :
    ∃ form rest, encode i = head form op :: rest := by
  have hi := header_statement i
  simp only [Laws.Header.Statement, h] at hi
  exact hi.2

/-- Settles O57: `Header` says it of the encoding, and a record that decodes is the encoding of what it decodes to (O2). -/
theorem identifierIsTheLowNibble : Obligations.IdentifierIsTheLowNibble := by
  refine ⟨fun i op hop => ?_, fun _ _ _ _ _ _ => rfl, fun _ _ _ _ => rfl, fun _ _ => rfl⟩
  have henc : ∃ form rest, encode i = head form op :: rest := by
    rcases hop with hop | ⟨rfl, k, slave, baddr, dptr, dsize, tmo, rfl⟩
    · exact encode_of_opid hop
    · exact ⟨1, _, rfl⟩
  obtain ⟨form, rest, henc⟩ := henc
  refine ⟨⟨_, rest, henc, head_extractLsb'_opid form op⟩, fun bytes hd => ?_⟩
  obtain ⟨-, -, hbytes⟩ := decodedBytesReencode .op bytes i nofun hd
  exact ⟨_, rest, hbytes.symm.trans henc, head_extractLsb'_opid form op⟩

/-! ### Table words -/

/-- Settles O4: the decoder run on six table words (log entry 28). -/
theorem sampleWordsDecode : Obligations.SampleWordsDecode := by
  unfold Obligations.SampleWordsDecode
  decide

end Sys2Proof
end

/-! ## What a step runs, and what it refuses -/
section

namespace Sys2Proof.Machine

variable {s : State}

/-- Operands in their ranges fit their encoding. -/
theorem fits_of_legal {cfg : Config} {i : Instr} (h : i.legal cfg = true) : i.fits = true := by
  cases i with
  | reqFrame fc baddr count data => exact h
  | _ => rfl

/-- A legal instruction presented in its own encoding is what the step runs. -/
theorem step_encode {i : Instr} (rest : List Input) (h : i.legal s.cfg = true) :
    step { s with inputs := inputOf i.format (encode i) :: rest } = exec i { s with inputs := rest } :=
  stepRunsPresentedInstruction { s with inputs := inputOf i.format (encode i) :: rest } i.format (encode i) rest i rfl
    (decodeAll_encode (fits_of_legal h)) h

/-- Settles O36: the encoding decodes back (O1), and a step runs what is presented first (O34). -/
theorem encodedInstructionIsRun : Obligations.EncodedInstructionIsRun := fun _ _ rest h => step_encode rest h

/-- Settles O31: `[0x0F]` is the record of the reserved identifier, which a step runs as any other. -/
theorem reservedOpidIsRefused : Obligations.ReservedOpidIsRefused := fun s rest =>
  ⟨rfl, rfl, step_encode (s := s) (i := .reservedOpidF) rest rfl⟩

theorem runBytes_of_error {f : Format} {bytes : List Byte} {e : DecodeError} (hd : decodeAll f bytes = .error e) :
    runBytes f bytes s = .refused (.undecodable e) := by
  simp [runBytes, hd]

theorem runBytes_of_not_legal {f : Format} {bytes : List Byte} {i : Instr} (hd : decodeAll f bytes = .ok i)
    (hl : i.legal s.cfg = false) : runBytes f bytes s = .refused .illFormed := by
  simp [runBytes, hd, hl]

/-- Settles O35. -/
theorem stepRefusesMalformedInput : Obligations.StepRefusesMalformedInput := by
  intro s f bytes rest hin
  have hstep : step s = runBytes f bytes { s with inputs := rest } :=
    (step_of_inputs hin).trans (present_inputOf f bytes _)
  exact ⟨fun e hd => hstep.trans (runBytes_of_error hd), fun i hd hl => hstep.trans (runBytes_of_not_legal hd hl)⟩

end Sys2Proof.Machine
end

/-! ## The two frames presented -/
section

namespace Sys2Proof.Machine

variable {s : State}

/-- The bytes read from a range are these exactly if every one of them is. -/
theorem readBytes_eq_iff (f : Nat → Byte) (l : List Byte) :
    readBytes f 0 l.length = l ↔ ∀ k, k < l.length → l[k]? = some (f k) := by
  constructor
  · intro h k hk
    rw [← h, readBytes_getElem?, if_pos hk, Nat.zero_add]
  · intro h
    refine List.ext_getElem? fun k => ?_
    rw [readBytes_getElem?, Nat.zero_add]
    by_cases hk : k < l.length
    · rw [if_pos hk, h k hk]
    · rw [if_neg hk, List.getElem?_eq_none (Nat.not_lt.1 hk)]

/-- These bytes are the first bytes of `TXBUF` (R62; log entry 19). -/
def Resident (s : State) (bytes : List Byte) : Prop :=
  bytes.length ≤ s.cfg.txbufSize ∧ ∀ k, k < bytes.length → bytes[k]? = some (s.txByte k)

theorem execReqFrame_answers (fc : Byte) (baddr : Word) (count : Half) (data : List Byte) (s : State) :
    ∃ same, execReqFrame fc baddr count data s = .next (s.respond (.resident same)) ∧
      (same = true ↔ Resident s (reqBytes fc baddr count data)) :=
  ⟨_, rfl, by rw [Bool.and_eq_true, decide_eq_true_eq, decide_eq_true_eq, readBytes_eq_iff]; rfl⟩

/-- What `BUILD` stores is resident (R47, R74). -/
theorem buildRequest_resident (i : Nat) {c : Ctx} (h : 7 + c.arg.dsize.toNat ≤ s.cfg.txbufSize) :
    Resident (buildRequest i c s) (requestBytes s c.arg) := by
  refine ⟨(requestBytes_length s c.arg).trans_le h, fun k hk => ?_⟩
  rw [buildRequest_txByte, List.getElem?_eq_getElem hk, Option.getD_some]

/-- Settles O33: a frame answers whether it is resident, and after a `BUILD` that is done its request is. -/
theorem reqFrameIsCheckedAgainstTheBuffer : Obligations.ReqFrameIsCheckedAgainstTheBuffer := by
  intro s fc baddr count data
  refine ⟨?_, fun i c t hc hp he => ?_⟩
  · obtain ⟨same, he, hsame⟩ := execReqFrame_answers fc baddr count data s
    exact ⟨same, he, by simpa [Resident] using hsame⟩
  · obtain ⟨d, hd, ⟨hne, -⟩ | ⟨-, hlen, rfl⟩⟩ := execBuild_next he
    · cases hc.symm.trans hd
      exact absurd hp hne
    · cases hc.symm.trans hd
      obtain ⟨same, he, hsame⟩ := execReqFrame_answers s.cfg.fcWriteBlock c.arg.baddr c.arg.dsize (callData s c.arg)
        (buildRequest i c s)
      exact hsame.2 (buildRequest_resident i hlen) ▸ he

theorem giveVerdict_of_some {rsp : List Byte} {len : Half} {e : Exc}
    (h : validateRsp s.cfg s.pendValid s.pendCount rsp len = some e) :
    giveVerdict rsp len s = .next (s.respond (.verdict e)) := by
  simp [giveVerdict, h]

/-- The verdict on the three bytes of a response frame (R90). -/
theorem validateRsp_rspFrame (cfg : Config) (valid : Bool) (count : Half) (fc : Byte) (written : Half)
    (hmin : cfg.pduSizeMin = 1) : validateRsp cfg valid count (fc :: be16 written) 3 =
      some (if valid = true ∧ written = count then excNone else excIllegalDataValue) := by
  rw [validateRsp_eq cfg valid count (fc :: be16 written) 3 hmin fun _ _ => Nat.le_refl 3]
  simp [be16]

/-- Settles O32. -/
theorem rspFrameIsParsed : Obligations.RspFrameIsParsed := fun s fc written hmin =>
  giveVerdict_of_some (validateRsp_rspFrame s.cfg s.pendValid s.pendCount fc written hmin)

end Sys2Proof.Machine
end

/-! ## The composite enters as `ISSUE` -/
section

namespace Sys2Proof.Machine

variable {s : State} {i : Nat} {c : Ctx} {slave : Byte} {dptr : Nat} {dsize : Half}

/-- The accepted arm of the call entry (R93). -/
theorem enterCall_accepted (acc : Ctx → State) (hc : s.ctxs[i]? = some c) (hp : c.phase = .idle)
    (ha : argchk s.cfg slave = true) (hk : capchk s.cfg dptr dsize = .ok) :
    enterCall acc i slave dptr dsize s = .next (acc c) := by
  simp [enterCall, onCtx_some _ hc, hp, ha, hk]

/-- On a context that exists the call entry is its accepted arm, or answers the same whatever that arm is. -/
theorem enterCall_cases (slave : Byte) (dptr : Nat) (dsize : Half) (hc : s.ctxs[i]? = some c) :
    (∀ acc : Ctx → State, enterCall acc i slave dptr dsize s = .next (acc c)) ∨
      ∃ t, t.out ≠ .accepted ∧ ∀ acc : Ctx → State, enterCall acc i slave dptr dsize s = .next t := by
  by_cases hp : c.phase = .idle
  · cases ha : argchk s.cfg slave with
    | false =>
      refine .inr ⟨returnCode i c .illegalArgument s, nofun, fun acc => ?_⟩
      simp [enterCall, onCtx_some _ hc, hp, ha]
    | true =>
      cases hk : capchk s.cfg dptr dsize with
      | ok => exact .inl fun acc => enterCall_accepted acc hc hp ha hk
      | capacity =>
        refine .inr ⟨raiseFault i c (.capacity i) s, nofun, fun acc => ?_⟩
        simp [enterCall, onCtx_some _ hc, hp, ha, hk]
      | pointer =>
        refine .inr ⟨raiseFault i c (.pointer i) s, nofun, fun acc => ?_⟩
        simp [enterCall, onCtx_some _ hc, hp, ha, hk]
  · refine .inr ⟨s.respond .refused, nofun, fun acc => ?_⟩
    rw [enterCall, onCtx_some _ hc, if_pos hp, refuse]

/-- Settles O9: both calls are one entry, `enterCall`, and differ in its accepted arm only. -/
theorem wbreqEntersAsIssue : Obligations.WbreqEntersAsIssue := by
  intro s i c slave baddr dptr dsize tmo hc
  refine ⟨?_, fun hp hlo hhi hcap hptr => ?_⟩
  · rcases enterCall_cases slave dptr dsize hc with hacc | ⟨t, hout, ht⟩
    · exact ⟨_, hacc _, hacc _⟩
    · refine ⟨t, ht _, ?_⟩
      rw [if_neg hout]
      exact ht _
  · exact enterCall_accepted _ hc hp ((argchk_iff s.cfg slave).2 ⟨hlo, hhi⟩)
      ((capchk_ok_iff s.cfg dptr dsize).2 ⟨hcap, hptr⟩)

end Sys2Proof.Machine
end

/-! ## An operation that is refused or blocked -/
section

namespace Sys2Proof.Safety

open Sys2Proof.Machine

variable {s t : State} {i : Nat} {op : Instr}

/-- The result of an operation that made no step of the block: its enabling condition is false, or its context is blocked. -/
inductive NoStep : Response → Prop where
  | refused : NoStep .refused
  | blocked : NoStep .blocked

/-- An operation that made no step changed nothing but the model's own result and counter of free choices. -/
def QuietUnlessDone (s t : State) : Prop := NoStep t.out → t = { s with out := t.out, draws := t.draws }

theorem QuietUnlessDone.respond (s : State) (r : Response) : QuietUnlessDone s (s.respond r) := fun _ => rfl

theorem QuietUnlessDone.draw (s : State) (r : Response) : QuietUnlessDone s (s.draw.respond r) := fun _ => rfl

/-- Whatever an operation wrote, it made a step if its result says so. -/
theorem QuietUnlessDone.of_out {r : Response} (hout : t.out = r) (h : ¬ NoStep r) : QuietUnlessDone s t :=
  fun hr => absurd (hout ▸ hr) h

theorem QuietUnlessDone.done (u : State) {r : Response} (h : ¬ NoStep r) : QuietUnlessDone s (u.respond r) := .of_out rfl h

theorem enterCall_quiet {acc : Ctx → State} {slave : Byte} {dptr : Nat} {dsize : Half}
    (hacc : ∀ c, QuietUnlessDone s (acc c)) (he : enterCall acc i slave dptr dsize s = .next t) : QuietUnlessDone s t := by
  obtain ⟨c, -, ⟨-, rfl⟩ | ⟨-, -, rfl⟩ | ⟨-, -, -, rfl⟩ | ⟨-, -, -, rfl⟩ | ⟨-, -, -, rfl⟩⟩ := enterCall_next he
  · exact .respond s _
  · exact .done _ nofun
  · exact .done _ nofun
  · exact .done _ nofun
  · exact hacc c

theorem execIssue_quiet {slave : Byte} {baddr : Word} {dptr : Nat} {dsize : Half} {tmo : Word}
    (he : execIssue i slave baddr dptr dsize tmo s = .next t) : QuietUnlessDone s t := by
  refine enterCall_quiet (fun c => ?_) he
  exact .of_out (r := .accepted) rfl nofun

theorem execWbreq_quiet {slave : Byte} {baddr : Word} {dptr : Nat} {dsize : Half} {tmo : Word}
    (he : execWbreq i slave baddr dptr dsize tmo s = .next t) : QuietUnlessDone s t := by
  refine enterCall_quiet (fun c => ?_) he
  exact .of_out (r := .accepted) rfl nofun

theorem execAcquire_quiet (he : execAcquire i s = .next t) : QuietUnlessDone s t := by
  obtain ⟨c, -, ⟨-, rfl⟩ | ⟨-, -, rfl⟩ | ⟨-, -, -, rfl⟩ | ⟨-, -, -, rfl⟩ | ⟨-, -, -, rfl⟩⟩ := execAcquire_next he
  · exact .respond s _
  · exact .done _ nofun
  · exact .respond s _
  · exact .done _ nofun
  · exact .draw s _

theorem execBuild_quiet (he : execBuild i s = .next t) : QuietUnlessDone s t := by
  obtain ⟨c, -, ⟨-, rfl⟩ | ⟨-, -, rfl⟩⟩ := execBuild_next he
  · exact .respond s _
  · exact .done _ nofun

theorem execPost_quiet (he : execPost i s = .next t) : QuietUnlessDone s t := by
  obtain ⟨c, -, ⟨-, rfl⟩ | ⟨-, rfl⟩⟩ := execPost_next he
  · exact .respond s _
  · exact .done _ nofun

theorem execWait_quiet (he : execWait i s = .next t) : QuietUnlessDone s t := by
  obtain ⟨c, -, ⟨-, rfl⟩ | ⟨-, rfl⟩⟩ := execWait_next he
  · exact .respond s _
  · exact .done _ nofun

theorem execWake_quiet (he : execWake i s = .next t) : QuietUnlessDone s t := by
  obtain ⟨c, -, ⟨-, rfl⟩ | ⟨-, -, rfl⟩ | ⟨-, -, code, -, rfl⟩⟩ := execWake_next he
  · exact .respond s _
  · exact .respond s _
  · exact .done _ nofun

theorem giveVerdict_quiet {rsp : List Byte} {len : Half} (he : giveVerdict rsp len s = .next t) : QuietUnlessDone s t := by
  obtain ⟨e, -, rfl⟩ := giveVerdict_next he
  exact .respond s _

theorem execReportRsp_quiet {rsp : List Byte} {len : Half} (he : execReportRsp rsp len s = .next t) :
    QuietUnlessDone s t := by
  obtain ⟨e, -, ⟨i, c, -, -, rfl⟩ | ⟨-, rfl⟩⟩ := execReportRsp_next he
  · exact .done _ nofun
  · exact .done _ nofun

theorem execReportExc_quiet {code : Exc} (he : execReportExc code s = .next t) : QuietUnlessDone s t := by
  obtain ⟨i, c, -, -, -, rfl⟩ | ⟨-, rfl⟩ := execReportExc_next he
  · exact .done _ nofun
  · exact .done _ nofun

theorem execReportTmo_quiet (he : execReportTmo s = .next t) : QuietUnlessDone s t := by
  obtain ⟨i, c, -, -, rfl⟩ | ⟨-, rfl⟩ := execReportTmo_next he
  · exact .done _ nofun
  · exact .done _ nofun

theorem execRelease_quiet (he : execRelease s = .next t) : QuietUnlessDone s t := by
  obtain ⟨i, -, -, rfl⟩ | ⟨-, rfl⟩ := execRelease_next he
  · exact .done _ nofun
  · exact .respond s _

theorem execXacquire_quiet (he : execXacquire s = .next t) : QuietUnlessDone s t := by
  obtain ⟨-, rfl⟩ | ⟨-, rfl⟩ := execXacquire_next he
  · exact .done _ nofun
  · exact .respond s _

theorem execXwrite_quiet {x : XTarget} (he : execXwrite x s = .next t) : QuietUnlessDone s t := by
  obtain ⟨-, ⟨off, b, -, -, rfl⟩ | ⟨v, -, rfl⟩ | ⟨v, -, rfl⟩⟩ | ⟨-, rfl⟩ := execXwrite_next he
  · exact .done _ nofun
  · exact .done _ nofun
  · exact .done _ nofun
  · exact .respond s _

theorem execXrelease_quiet (he : execXrelease s = .next t) : QuietUnlessDone s t := by
  obtain ⟨-, rfl⟩ | ⟨-, rfl⟩ := execXrelease_next he
  · exact .done _ nofun
  · exact .respond s _

theorem exec_quiet (he : exec op s = .next t) : QuietUnlessDone s t := by
  cases op with
  | issue i slave baddr dptr dsize tmo => exact execIssue_quiet he
  | acquire i => exact execAcquire_quiet he
  | build i => exact execBuild_quiet he
  | post i => exact execPost_quiet he
  | wait i => exact execWait_quiet he
  | wake i => exact execWake_quiet he
  | validate rsp len => exact giveVerdict_quiet he
  | reportRsp rsp len => exact execReportRsp_quiet he
  | reportExc code => exact execReportExc_quiet he
  | reportTmo => exact execReportTmo_quiet he
  | release => exact execRelease_quiet he
  | xacquire => exact execXacquire_quiet he
  | xwrite x => exact execXwrite_quiet he
  | xrelease => exact execXrelease_quiet he
  | txread =>
    obtain ⟨r, rfl, -⟩ := execTxread_next he
    exact .respond s r
  | reservedOpidF => cases he
  | wbreq i slave baddr dptr dsize tmo => exact execWbreq_quiet he
  | reqFrame fc baddr count data =>
    obtain ⟨same, rfl⟩ := execReqFrame_next he
    exact .respond s _
  | rspFrame fc written => exact giveVerdict_quiet he

/-- Settles O55: `exec_quiet`, operation by operation. -/
theorem refusedOrBlockedChangesNothing : Obligations.RefusedOrBlockedChangesNothing := by
  intro s t op he hout
  refine exec_quiet he ?_
  rcases hout with hout | hout
  · exact hout ▸ .refused
  · exact hout ▸ .blocked

end Sys2Proof.Safety
end

/-! ## Every legal operation answers a next state -/
section

namespace Sys2Proof.Safety

open Sys2Proof.Machine

variable {s : State} {i : Nat} {op : Instr}

/-- The operation answers a next state. -/
def Completes (o : Out) : Prop := ∃ t, o = .next t

theorem Completes.next (t : State) : Completes (.next t) := ⟨t, rfl⟩

theorem Completes.ite {p : Prop} [Decidable p] {a b : Out} (ha : p → Completes a) (hb : ¬ p → Completes b) :
    Completes (if p then a else b) := by
  split
  · exact ha ‹_›
  · exact hb ‹_›

/-- A context with a number below `NCTX` exists (R13). -/
theorem Invariant.exists_ctx (h : Invariant s) (hi : i < s.cfg.nctx) : ∃ c, s.ctxs[i]? = some c :=
  ⟨_, List.getElem?_eq_getElem (h.ctxCount ▸ hi)⟩

theorem onCtx_completes {f : Ctx → Out} (h : Invariant s) (hi : i < s.cfg.nctx)
    (hf : ∀ c, s.ctxs[i]? = some c → Completes (f c)) : Completes (onCtx i s f) := by
  obtain ⟨c, hc⟩ := h.exists_ctx hi
  rw [onCtx_some f hc]
  exact hf c hc

theorem enterCall_completes {acc : Ctx → State} {slave : Byte} {dptr : Nat} {dsize : Half} (h : Invariant s)
    (hi : i < s.cfg.nctx) : Completes (enterCall acc i slave dptr dsize s) := by
  obtain ⟨c, hc⟩ := h.exists_ctx hi
  rcases enterCall_cases slave dptr dsize hc with hacc | ⟨t, -, ht⟩
  · exact ⟨_, hacc acc⟩
  · exact ⟨t, ht acc⟩

theorem execAcquire_completes (h : Invariant s) (hi : i < s.cfg.nctx) : Completes (execAcquire i s) :=
  onCtx_completes h hi fun _ _ => .ite (fun _ => .next _) fun _ => .ite (fun _ => .next _) fun _ =>
    .ite (fun _ => .next _) fun _ => .ite (fun _ => .next _) fun _ => .next _

/-- The checks of `ISSUE` keep `BUILD` inside `CDATA` and `TXBUF` (R12, R71, R72). -/
theorem Invariant.build_in_range (h : Invariant s) {c : Ctx} (hc : s.ctxs[i]? = some c) (hp : c.phase = .serializing) :
    ¬ (0 < c.arg.dsize.toNat ∧ 2 ^ s.cfg.ptrW < c.arg.dptr + c.arg.dsize.toNat) ∧
      7 + c.arg.dsize.toNat ≤ s.cfg.txbufSize := by
  obtain ⟨-, hcap⟩ := h.argsChecked i c hc (by simp [hp]) (by simp [hp])
  obtain ⟨hsize, hptr⟩ := (capchk_ok_iff s.cfg c.arg.dptr c.arg.dsize).1 hcap
  obtain ⟨-, -, -, -, hbuf, -⟩ := h.cfgLegal
  omega

theorem execBuild_completes (h : Invariant s) (hi : i < s.cfg.nctx) : Completes (execBuild i s) := by
  refine onCtx_completes h hi fun c hc => .ite (fun _ => .next _) fun hp => ?_
  obtain ⟨hdata, hbuf⟩ := h.build_in_range hc (Decidable.not_not.1 hp)
  exact .ite (fun hout => absurd hout hdata) fun _ => .ite (fun hout => absurd hbuf (Nat.not_le.2 hout)) fun _ => .next _

theorem execPost_completes (h : Invariant s) (hi : i < s.cfg.nctx) : Completes (execPost i s) :=
  onCtx_completes h hi fun _ _ => .ite (fun _ => .next _) fun _ => .next _

theorem execWait_completes (h : Invariant s) (hi : i < s.cfg.nctx) : Completes (execWait i s) :=
  onCtx_completes h hi fun _ _ => .ite (fun _ => .next _) fun _ => .next _

theorem execWake_completes (h : Invariant s) (hi : i < s.cfg.nctx) : Completes (execWake i s) :=
  onCtx_completes h hi fun c _ => .ite (fun _ => by
    cases translateOutcome c.outcome with
    | none => exact .next _
    | some code => exact .next _) fun _ => .next _

/-- A response has a verdict, if the bytes are there that R90 reads. -/
theorem Invariant.exists_verdict (h : Invariant s) {rsp : List Byte} {len : Half}
    (hl : len = 3 → s.pendValid = true → 3 ≤ rsp.length) :
    ∃ e, validateRsp s.cfg s.pendValid s.pendCount rsp len = some e := by
  obtain ⟨-, -, hmin, -⟩ := h.cfgLegal
  exact ⟨_, validateRsp_eq s.cfg s.pendValid s.pendCount rsp len hmin hl⟩

theorem giveVerdict_completes {rsp : List Byte} {len : Half} (h : Invariant s)
    (hl : len = 3 → s.pendValid = true → 3 ≤ rsp.length) : Completes (giveVerdict rsp len s) := by
  obtain ⟨e, he⟩ := h.exists_verdict hl
  exact ⟨_, giveVerdict_of_some he⟩

theorem execReportRsp_completes {rsp : List Byte} {len : Half} (h : Invariant s)
    (hl : len = 3 → s.pendValid = true → 3 ≤ rsp.length) : Completes (execReportRsp rsp len s) := by
  obtain ⟨e, he⟩ := h.exists_verdict hl
  simp only [execReportRsp, he]
  split <;> exact .next _

theorem execReportExc_completes (code : Exc) (s : State) : Completes (execReportExc code s) := by
  unfold execReportExc
  split
  · exact .ite (fun _ => .next _) fun _ => .next _
  · exact .next _

theorem execReportTmo_completes (s : State) : Completes (execReportTmo s) := by
  unfold execReportTmo
  split <;> exact .next _

theorem execRelease_completes (s : State) : Completes (execRelease s) := by
  unfold execRelease
  split
  · exact .ite (fun _ => .next _) fun _ => .next _
  · exact .next _
  · exact .next _

theorem execXacquire_completes (s : State) : Completes (execXacquire s) := .ite (fun _ => .next _) fun _ => .next _

theorem execXwrite_completes {x : XTarget} (hl : (Instr.xwrite x).legal s.cfg = true) : Completes (execXwrite x s) := by
  refine .ite (fun _ => ?_) fun _ => .next _
  cases x with
  | byte off b => exact .ite (fun _ => .next _) fun hoff => absurd (of_decide_eq_true hl) hoff
  | txlen v => exact .next _
  | dest v => exact .next _

theorem execXrelease_completes (s : State) : Completes (execXrelease s) := .ite (fun _ => .next _) fun _ => .next _

theorem exec_completes (h : Invariant s) (hl : op.legal s.cfg = true) (hop : op ≠ .reservedOpidF)
    (hrsp : ∀ rsp, (op = .validate rsp 3 ∨ op = .reportRsp rsp 3) → s.pendValid = true → 3 ≤ rsp.length) :
    Completes (exec op s) := by
  cases op with
  | issue i slave baddr dptr dsize tmo => exact enterCall_completes h (legal_issue_iff.1 hl).1
  | acquire i => exact execAcquire_completes h (of_decide_eq_true hl)
  | build i => exact execBuild_completes h (of_decide_eq_true hl)
  | post i => exact execPost_completes h (of_decide_eq_true hl)
  | wait i => exact execWait_completes h (of_decide_eq_true hl)
  | wake i => exact execWake_completes h (of_decide_eq_true hl)
  | validate rsp len => exact giveVerdict_completes h fun hlen => hrsp rsp (.inl (by rw [hlen]))
  | reportRsp rsp len => exact execReportRsp_completes h fun hlen => hrsp rsp (.inr (by rw [hlen]))
  | reportExc code => exact execReportExc_completes code s
  | reportTmo => exact execReportTmo_completes s
  | release => exact execRelease_completes s
  | xacquire => exact execXacquire_completes s
  | xwrite x => exact execXwrite_completes hl
  | xrelease => exact execXrelease_completes s
  | txread => exact .next _
  | reservedOpidF => exact absurd rfl hop
  | wbreq i slave baddr dptr dsize tmo => exact enterCall_completes h (legal_wbreq_iff.1 hl).1
  | reqFrame fc baddr count data => exact .next _
  | rspFrame fc written => exact giveVerdict_completes h fun _ _ => Nat.le_refl 3

/-- Settles O43: the ranges and the invariants keep every operation from its faults, in `exec_completes`. -/
theorem legalOperationsComplete : Obligations.LegalOperationsComplete := fun _ _ => exec_completes

end Sys2Proof.Safety
end

/-! ## The whole request that `BUILD` writes -/
section

namespace Sys2Proof.Machine

variable {s : State} {i : Nat} {c : Ctx}

theorem execBuild_of_not_serializing (hc : s.ctxs[i]? = some c) (hp : c.phase ≠ .serializing) :
    execBuild i s = refuse s :=
  (onCtx_some _ hc).trans (if_pos hp)

/-- `BUILD` is done where the data lies in `CDATA` and the request fits `TXBUF` (R21, R32, R74). -/
theorem execBuild_of_in_range (hc : s.ctxs[i]? = some c) (hp : c.phase = .serializing)
    (hdata : ¬ (0 < c.arg.dsize.toNat ∧ 2 ^ s.cfg.ptrW < c.arg.dptr + c.arg.dsize.toNat))
    (hbuf : 7 + c.arg.dsize.toNat ≤ s.cfg.txbufSize) : execBuild i s = .next (buildRequest i c s) := by
  rw [execBuild, onCtx_some _ hc, if_neg (not_not.2 hp), if_neg hdata, if_neg (Nat.not_lt.2 hbuf)]

/-- The registers that `BUILD` writes, and no other (R74), with the spec's `REQ_LEN_BASE`. -/
theorem buildRequest_eq (i : Nat) (c : Ctx) (hbase : s.cfg.reqLenBase = 6) :
    buildRequest i c s = { s with
      txbuf := (buildRequest i c s).txbuf
      txlen := 6 + c.arg.dsize
      dest := c.arg.slave
      pendValid := true
      pendCount := c.arg.dsize
      ctxs := s.ctxs.set i { c with phase := .locked }
      out := .done } := by
  rw [← hbase]
  rfl

/-- The caller's bytes stand in `TXBUF` from offset 7 (R47, R52). -/
theorem buildRequest_txByte_data (i : Nat) (c : Ctx) (s : State) {k : Nat} (hk : k < c.arg.dsize.toNat) :
    (buildRequest i c s).txByte (7 + k) = s.cdataByte (c.arg.dptr + k) := by
  rw [buildRequest_txByte, requestBytes, reqBytes_getElem?_data, callData, readBytes_getElem?, if_pos hk, Option.getD_some]

/-- Settles O17: the operands that passed the checks keep `BUILD` in range; the seven header bytes are those of the
request by evaluation, and the tail is O18's. -/
theorem buildWritesRequest : Obligations.BuildWritesRequest := by
  intro s i c hc
  refine ⟨rfl, fun hp => execBuild_of_not_serializing hc hp, fun hp hlegal hcap hptr => ?_⟩
  obtain ⟨-, -, -, hbase, hsize, -⟩ := hlegal
  have he : exec (.build i) s = .next (buildRequest i c s) :=
    execBuild_of_in_range hc hp (by omega) (by omega)
  have hbyte := buildRequest_txByte i c s
  exact ⟨buildRequest i c s, he, buildRequest_eq i c hbase, hbyte 0, hbyte 1, hbyte 2, hbyte 3, hbyte 4, hbyte 5, hbyte 6,
    fun k => buildRequest_txByte_data i c s,
    fun off hoff => buildKeepsTheTail s _ i c hc he off ((requestBytes_length s c.arg).trans_le hoff)⟩

end Sys2Proof.Machine
end

/-! ## The lock of the shared transmit state -/
section

namespace Sys2Proof.Machine

variable {s : State} {i : Nat} {c : Ctx}

/-! ### `ACQUIRE`, one equation per arm (R75) -/

theorem execAcquire_of_not_acquiring (hc : s.ctxs[i]? = some c) (hp : c.phase ≠ .acquiring) :
    execAcquire i s = refuse s :=
  (onCtx_some _ hc).trans (if_pos hp)

theorem execAcquire_of_free (hc : s.ctxs[i]? = some c) (hp : c.phase = .acquiring) (ho : s.lockOwner = .none) :
    execAcquire i s = .next (takeSlot i c s) := by
  rw [execAcquire, onCtx_some _ hc, if_neg (not_not.2 hp), if_pos ho]

theorem execAcquire_of_infinite_wait (hc : s.ctxs[i]? = some c) (hp : c.phase = .acquiring) (ho : s.lockOwner ≠ .none)
    (ht : c.arg.tmo = s.cfg.infiniteWait) : execAcquire i s = block s := by
  rw [execAcquire, onCtx_some _ hc, if_neg (not_not.2 hp), if_neg ho, if_pos ht]

/-- Under a finite timeout the free value alone says which of the two answers is given (U6). -/
theorem execAcquire_of_finite_wait (hc : s.ctxs[i]? = some c) (hp : c.phase = .acquiring) (ho : s.lockOwner ≠ .none)
    (ht : c.arg.tmo ≠ s.cfg.infiniteWait) : execAcquire i s =
      if Config.lockTimeoutExpired s.draws = true then .next (returnCode i c .masterBusy s.draw) else block s.draw := by
  rw [execAcquire, onCtx_some _ hc, if_neg (not_not.2 hp), if_neg ho, if_neg ht]

/-- Settles O12: each clause is an arm's equation, and the last one splits on the free value. -/
theorem acquireArms : Obligations.AcquireArms := by
  intro s i c hc
  refine ⟨rfl, execAcquire_of_not_acquiring hc, execAcquire_of_free hc, execAcquire_of_infinite_wait hc,
    fun hp ho ht => ?_⟩
  have he := execAcquire_of_finite_wait hc hp ho ht
  by_cases hexp : Config.lockTimeoutExpired s.draws = true
  · exact .inr (he.trans (if_pos hexp))
  · exact .inl (he.trans (if_neg hexp))

/-! ### `RELEASE` (R76) -/

theorem execRelease_of_reported (ho : s.lockOwner = .ctx i) (hr : s.lockReported = true) :
    execRelease s = .next ((s.setLock .none false).respond .done) := by
  simp only [execRelease, ho, hr, if_true]

theorem execRelease_of_not_ctx (ho : ∀ i, s.lockOwner ≠ .ctx i) : execRelease s = refuse s := by
  unfold execRelease
  split
  case h_1 i hi => exact absurd hi (ho i)
  all_goals rfl

theorem execRelease_of_not_reported (hr : s.lockReported = false) : execRelease s = refuse s := by
  unfold execRelease
  split
  case h_1 => exact if_neg (by simp [hr])
  all_goals rfl

/-- Settles O13. -/
theorem releaseFreesReportedSlot : Obligations.ReleaseFreesReportedSlot := fun _ =>
  ⟨rfl, fun _ => execRelease_of_reported, fun h => h.elim execRelease_of_not_ctx execRelease_of_not_reported⟩

/-! ### The other requester (R77 to R79) -/

theorem execXacquire_of_free (ho : s.lockOwner = .none) :
    execXacquire s = .next ((s.setLock .ext false).respond .done) := if_pos ho

theorem execXacquire_of_held (ho : s.lockOwner ≠ .none) : execXacquire s = refuse s := if_neg ho

/-- Settles O14. -/
theorem xacquireTakesFreeSlot : Obligations.XacquireTakesFreeSlot := fun _ =>
  ⟨rfl, execXacquire_of_free, execXacquire_of_held⟩

theorem execXwrite_byte (ho : s.lockOwner = .ext) {off : Nat} (b : Byte) (hoff : off < s.cfg.txbufSize) :
    execXwrite (.byte off b) s = .next ((s.setTx (s.txbuf.write off [b]) s.txlen s.dest).respond .done) :=
  (if_pos ho).trans (if_pos hoff)

theorem execXwrite_txlen (ho : s.lockOwner = .ext) (v : Half) :
    execXwrite (.txlen v) s = .next ((s.setTx s.txbuf v s.dest).respond .done) := if_pos ho

theorem execXwrite_dest (ho : s.lockOwner = .ext) (v : Byte) :
    execXwrite (.dest v) s = .next ((s.setTx s.txbuf s.txlen v).respond .done) := if_pos ho

theorem execXwrite_of_not_ext (ho : s.lockOwner ≠ .ext) (x : XTarget) : execXwrite x s = refuse s := if_neg ho

/-- A byte of `TXBUF` after one byte was stored. -/
theorem State.txByte_setTx_write_one (s : State) (off a : Nat) (b : Byte) (n : Half) (d : Byte) :
    (s.setTx (s.txbuf.write off [b]) n d).txByte a = if a = off then b else s.txByte a := by
  rw [State.txByte_setTx_write]
  obtain h | rfl | h := Nat.lt_trichotomy a off
  · rw [if_neg (Nat.not_le.2 h), if_neg h.ne]
  · simp
  · rw [if_pos h.le, if_neg h.ne', List.getElem?_eq_none (Nat.sub_pos_of_lt h), Option.getD_none]

/-- Settles O15: the register targets by their equations, the byte target by what one stored byte makes of `TXBUF`. -/
theorem xwriteTargets : Obligations.XwriteTargets := by
  refine fun s => ⟨fun _ => rfl, fun ho off b hoff => ?_, execXwrite_txlen, execXwrite_dest, execXwrite_of_not_ext⟩
  have hbyte (a : Nat) := State.txByte_setTx_write_one s off a b s.txlen s.dest
  exact ⟨_, execXwrite_byte ho b hoff, rfl, (hbyte off).trans (if_pos rfl), fun a ha => (hbyte a).trans (if_neg ha)⟩

theorem execXrelease_of_ext (ho : s.lockOwner = .ext) :
    execXrelease s = .next ((s.setLock .none s.lockReported).respond .done) := if_pos ho

theorem execXrelease_of_not_ext (ho : s.lockOwner ≠ .ext) : execXrelease s = refuse s := if_neg ho

/-- Settles O16: the value written to `LOCK.REPORTED` is the one it holds. -/
theorem xreleaseFreesExternalSlot : Obligations.XreleaseFreesExternalSlot := fun _ =>
  ⟨rfl, execXrelease_of_ext, execXrelease_of_not_ext⟩

end Sys2Proof.Machine
end

/-! ## The event notifier: `POST` and `TXREAD` -/
section

namespace Sys2Proof.Machine

variable {s : State} {i : Nat} {c : Ctx}

/-! ### `POST`, one equation per arm (R81) -/

theorem execPost_of_locked (hc : s.ctxs[i]? = some c) (hp : c.phase = .locked) :
    execPost i s = .next (((s.emit (.txEvent i)).setCtx i { c with phase := .sent }).respond .done) :=
  (onCtx_some _ hc).trans (if_pos hp)

theorem execPost_of_not_locked (hc : s.ctxs[i]? = some c) (hp : c.phase ≠ .locked) : execPost i s = refuse s :=
  (onCtx_some _ hc).trans (if_neg hp)

/-- Settles O20: each clause is an arm's equation; the writes of the first are the record update it states. -/
theorem postEmitsOneEvent : Obligations.PostEmitsOneEvent := fun _ _ _ hc =>
  ⟨rfl, execPost_of_locked hc, execPost_of_not_locked hc⟩

/-! ### `TXREAD` (R82) -/

/-- Settles O21: the bytes are those `readBytes` takes from offset 0 on. -/
theorem txreadGivesResidentFrame : Obligations.TxreadGivesResidentFrame := by
  refine fun s => ⟨rfl, readBytes s.txByte 0 s.cfg.txbufSize, rfl, readBytes_length _ _ _, fun k hk => ?_⟩
  rw [readBytes_getElem?, if_pos hk, Nat.zero_add]

end Sys2Proof.Machine
end

/-! ## The completion wait: `WAIT`, `WAKE` and the three reports -/
section

namespace Sys2Proof.Machine

open Sys2Proof.Safety

variable {s : State} {i : Nat} {c : Ctx}

/-! ### `WAIT`, one equation per arm (R83) -/

theorem execWait_of_sent (hc : s.ctxs[i]? = some c) (hp : c.phase = .sent) :
    execWait i s = .next ((s.setCtx i { c with phase := .awaiting }).respond .done) :=
  (onCtx_some _ hc).trans (if_pos hp)

theorem execWait_of_not_sent (hc : s.ctxs[i]? = some c) (hp : c.phase ≠ .sent) : execWait i s = refuse s :=
  (onCtx_some _ hc).trans (if_neg hp)

/-- Settles O23: each clause is an arm's equation; the writes of the first are the record update it states. -/
theorem waitEntersTheWait : Obligations.WaitEntersTheWait := fun _ _ _ hc =>
  ⟨rfl, execWait_of_sent hc, execWait_of_not_sent hc⟩

/-! ### `WAKE`, one equation per arm (R84) -/

/-- An outcome that translates (R85) ends the call with its code. -/
theorem execWake_of_outcome (hc : s.ctxs[i]? = some c) (hp : c.phase = .awaiting) {o : OutcomeReg} {code : ErrorCode}
    (ho : c.outcome = o) (hcode : translateOutcome o = some code) :
    execWake i s = .next (returnCode i { c with outcome := .empty } code s) := by
  subst ho
  rw [execWake, onCtx_some _ hc, if_pos hp, hcode]

theorem execWake_of_empty (hc : s.ctxs[i]? = some c) (hp : c.phase = .awaiting) (ho : c.outcome = .empty) :
    execWake i s = block s := by
  rw [execWake, onCtx_some _ hc, if_pos hp, (translateOutcome_eq_none_iff _).2 ho]

theorem execWake_of_not_awaiting (hc : s.ctxs[i]? = some c) (hp : c.phase ≠ .awaiting) : execWake i s = refuse s :=
  (onCtx_some _ hc).trans (if_neg hp)

/-- Settles O24: the three clauses with an outcome are one equation, at the three rows of R85. -/
theorem wakeReturnsOutcome : Obligations.WakeReturnsOutcome := fun _ _ _ hc =>
  ⟨rfl, fun hp ho => execWake_of_outcome hc hp ho rfl, fun hp ho => execWake_of_outcome hc hp ho rfl,
    fun hp ho => execWake_of_outcome hc hp ho rfl, execWake_of_empty hc, execWake_of_not_awaiting hc⟩

/-! ### The reports, one equation per arm (R86 to R89) -/

theorem execReportRsp_of_accepts {rsp : List Byte} {len : Half} {e : Exc} (ha : Accepts s i) (hc : s.ctxs[i]? = some c)
    (he : validateRsp s.cfg s.pendValid s.pendCount rsp len = some e) :
    execReportRsp rsp len s = .next (report i c (outcomeOf e) (.acceptedOutcome (outcomeOf e) e) s) := by
  simp only [execReportRsp, he, (accepting_some_iff s i c).2 ⟨ha, hc⟩]

theorem execReportRsp_of_not_accepts {rsp : List Byte} {len : Half} {e : Exc} (ha : ∀ i, ¬ Accepts s i)
    (he : validateRsp s.cfg s.pendValid s.pendCount rsp len = some e) :
    execReportRsp rsp len s = .next (discardReport .rsp (some e) s) := by
  simp only [execReportRsp, he, (accepting_none_iff s).2 ha]

/-- Settles O27: `validateRsp_eq` gives the verdict, and each clause is an arm's equation at that verdict. -/
theorem reportRspArms : Obligations.ReportRspArms := by
  intro s rsp len hmin hbytes
  have he := validateRsp_eq s.cfg s.pendValid s.pendCount rsp len hmin hbytes
  exact ⟨rfl, fun i c ha hc => execReportRsp_of_accepts ha hc he, fun ha => execReportRsp_of_not_accepts ha he⟩

theorem execReportExc_of_accepts {code : Exc} (ha : Accepts s i) (hc : s.ctxs[i]? = some c) (hcode : code ≠ excNone) :
    execReportExc code s = .next (report i c .protocolException .accepted s) := by
  simp only [execReportExc, (accepting_some_iff s i c).2 ⟨ha, hc⟩, if_neg hcode]

theorem execReportExc_of_not_accepts (code : Exc) (ha : ∀ i, ¬ Accepts s i) :
    execReportExc code s = .next (discardReport .exc none s) := by
  simp only [execReportExc, (accepting_none_iff s).2 ha]

/-- Code 0x00 is no exception: it is dropped whether or not a context would accept a report (R87). -/
theorem execReportExc_none (s : State) : execReportExc excNone s = .next (discardReport .exc none s) := by
  unfold execReportExc
  split
  · exact if_pos rfl
  · rfl

/-- Settles O28. -/
theorem reportExcArms : Obligations.ReportExcArms := by
  refine fun s code => ⟨rfl, fun i c => execReportExc_of_accepts, ?_⟩
  rintro (ha | rfl)
  · exact execReportExc_of_not_accepts code ha
  · exact execReportExc_none s

theorem execReportTmo_of_accepts (ha : Accepts s i) (hc : s.ctxs[i]? = some c) :
    execReportTmo s = .next (report i c .timeout .accepted s) := by
  simp only [execReportTmo, (accepting_some_iff s i c).2 ⟨ha, hc⟩]

theorem execReportTmo_of_not_accepts (ha : ∀ i, ¬ Accepts s i) :
    execReportTmo s = .next (discardReport .tmo none s) := by
  simp only [execReportTmo, (accepting_none_iff s).2 ha]

/-- Settles O29. -/
theorem reportTmoArms : Obligations.ReportTmoArms := fun _ =>
  ⟨rfl, fun _ _ => execReportTmo_of_accepts, execReportTmo_of_not_accepts⟩

end Sys2Proof.Machine
end

/-! ## The first report wins -/
section

namespace Sys2Proof.Safety

open Sys2Proof.Machine

variable {s t : State} {op : Instr}

/-- No context is open to a report, nor becomes so before an `ACQUIRE`: the slot is some context's only if it is reported.
`RELEASE` clears `LOCK.REPORTED`, so that register alone is not kept; and a context is kept from accepting by its phase only
until the engine moves it, so `¬ Accepts` alone is not kept either. -/
def ReportClosed (s : State) : Prop := ∀ i, s.lockOwner = .ctx i → s.lockReported = true

theorem ReportClosed.not_accepts (h : ReportClosed s) (i : Nat) : ¬ Accepts s i := by
  rintro ⟨ho, hr, -⟩
  simp [h i ho] at hr

theorem ReportClosed.of_sameLock (h : ReportClosed s) (hl : SameLock s t) : ReportClosed t := by
  obtain ⟨ho, hr⟩ := hl
  intro i hi
  exact hr.trans (h i (ho.symm.trans hi))

theorem ReportClosed.of_not_ctx (ho : ∀ i, t.lockOwner ≠ .ctx i) : ReportClosed t := fun i hi => absurd hi (ho i)

/-- Every report is dropped (R89). -/
theorem ReportClosed.report_discarded (h : ReportClosed s) {kind : ReportKind} (hop : ReportOf op kind)
    (he : exec op s = .next t) : ∃ exc, t = discardReport kind exc s := by
  cases kind with
  | rsp =>
    obtain ⟨rsp, len, rfl⟩ := hop
    obtain ⟨e, -, ⟨i, c, ha, -⟩ | ⟨-, rfl⟩⟩ := execReportRsp_next he
    · exact absurd ha (h.not_accepts i)
    · exact ⟨some e, rfl⟩
  | exc =>
    obtain ⟨code, rfl⟩ := hop
    obtain ⟨i, c, ha, -⟩ | ⟨-, rfl⟩ := execReportExc_next he
    · exact absurd ha (h.not_accepts i)
    · exact ⟨none, rfl⟩
  | tmo =>
    obtain rfl : op = .reportTmo := hop
    obtain ⟨i, c, ha, -⟩ | ⟨-, rfl⟩ := execReportTmo_next he
    · exact absurd ha (h.not_accepts i)
    · exact ⟨none, rfl⟩

/-- A dropped report changes no context's registers, not `LOCK.REPORTED` and not `PEND.VALID`. -/
theorem ReportClosed.report_keeps (h : ReportClosed s) {kind : ReportKind} (hop : ReportOf op kind)
    (he : exec op s = .next t) :
    t.ctxs = s.ctxs ∧ t.lockReported = s.lockReported ∧ t.pendValid = s.pendValid := by
  obtain ⟨exc, rfl⟩ := h.report_discarded hop he
  exact ⟨rfl, rfl, rfl⟩

/-! ### Every operation but `ACQUIRE` keeps it -/

/-- Of the engine's operations `ACQUIRE` alone writes the lock (R75). -/
theorem engine_sameLock (hop : ∀ k, op ≠ .acquire k) (he : exec op s = .next t) (ha : initiator op = some .engine) :
    SameLock s t := by
  cases op with
  | acquire i => exact absurd rfl (hop i)
  | build i => obtain ⟨c, -, ⟨-, rfl⟩ | ⟨-, -, rfl⟩⟩ := execBuild_next he <;> exact ⟨rfl, rfl⟩
  | post i => obtain ⟨c, -, ⟨-, rfl⟩ | ⟨-, rfl⟩⟩ := execPost_next he <;> exact ⟨rfl, rfl⟩
  | wait i => obtain ⟨c, -, ⟨-, rfl⟩ | ⟨-, rfl⟩⟩ := execWait_next he <;> exact ⟨rfl, rfl⟩
  | wake i => obtain ⟨c, -, ⟨-, rfl⟩ | ⟨-, -, rfl⟩ | ⟨-, -, code, -, rfl⟩⟩ := execWake_next he <;> exact ⟨rfl, rfl⟩
  | _ => cases ha

theorem ReportClosed.of_report (h : ReportClosed s) {kind : ReportKind} (hop : ReportOf op kind)
    (he : exec op s = .next t) : ReportClosed t := by
  obtain ⟨exc, rfl⟩ := h.report_discarded hop he
  exact h.of_sameLock ⟨rfl, rfl⟩

theorem ReportClosed.of_verdict {rsp : List Byte} {len : Half} (h : ReportClosed s)
    (he : giveVerdict rsp len s = .next t) : ReportClosed t := by
  obtain ⟨e, -, rfl⟩ := giveVerdict_next he
  exact h.of_sameLock ⟨rfl, rfl⟩

theorem ReportClosed.of_dispatcher (h : ReportClosed s) (he : exec op s = .next t)
    (ha : initiator op = some .dispatcher) : ReportClosed t := by
  cases op with
  | validate rsp len => exact h.of_verdict he
  | reportRsp rsp len => exact h.of_report (kind := .rsp) ⟨rsp, len, rfl⟩ he
  | reportExc code => exact h.of_report (kind := .exc) ⟨code, rfl⟩ he
  | reportTmo => exact h.of_report (kind := .tmo) rfl he
  | txread =>
    obtain ⟨r, rfl, -⟩ := execTxread_next he
    exact h.of_sameLock ⟨rfl, rfl⟩
  | reqFrame fc baddr count data =>
    obtain ⟨same, rfl⟩ := execReqFrame_next he
    exact h.of_sameLock ⟨rfl, rfl⟩
  | rspFrame fc written => exact h.of_verdict he
  | _ => cases ha

/-- The completion path frees the slot or leaves the lock (R76). -/
theorem ReportClosed.of_completionPath (h : ReportClosed s) (he : exec op s = .next t)
    (ha : initiator op = some .completionPath) : ReportClosed t := by
  cases op with
  | release =>
    obtain ⟨i, -, -, rfl⟩ | ⟨-, rfl⟩ := execRelease_next he
    · exact .of_not_ctx nofun
    · exact h.of_sameLock ⟨rfl, rfl⟩
  | _ => cases ha

/-- The other requester takes the slot, frees it, or leaves the lock (R77 to R79). -/
theorem ReportClosed.of_otherRequester (h : ReportClosed s) (he : exec op s = .next t)
    (ha : initiator op = some .otherRequester) : ReportClosed t := by
  cases op with
  | xacquire =>
    obtain ⟨-, rfl⟩ | ⟨-, rfl⟩ := execXacquire_next he
    · exact .of_not_ctx nofun
    · exact h.of_sameLock ⟨rfl, rfl⟩
  | xwrite x =>
    obtain ⟨-, ⟨_, _, -, -, rfl⟩ | ⟨_, -, rfl⟩ | ⟨_, -, rfl⟩⟩ | ⟨-, rfl⟩ := execXwrite_next he <;>
      exact h.of_sameLock ⟨rfl, rfl⟩
  | xrelease =>
    obtain ⟨-, rfl⟩ | ⟨-, rfl⟩ := execXrelease_next he
    · exact .of_not_ctx nofun
    · exact h.of_sameLock ⟨rfl, rfl⟩
  | _ => cases ha

theorem ReportClosed.of_exec (h : ReportClosed s) (hop : ∀ k, op ≠ .acquire k) (he : exec op s = .next t) :
    ReportClosed t := by
  obtain ⟨a, ha, hk⟩ := exec_agentKeeps he
  cases a with
  | caller => exact h.of_sameLock (CallerKeeps.lock hk)
  | engine => exact h.of_sameLock (engine_sameLock hop he ha)
  | dispatcher => exact h.of_dispatcher he ha
  | completionPath => exact h.of_completionPath he ha
  | otherRequester => exact h.of_otherRequester he ha

theorem ReportClosed.of_runOps {ops : List Instr} (h : ReportClosed s) (hops : ∀ op ∈ ops, ∀ k, op ≠ .acquire k)
    (hrun : runOps ops s = some t) : ReportClosed t := by
  induction ops generalizing s with
  | nil =>
    cases hrun
    exact h
  | cons op r ih =>
    obtain ⟨hop, hr⟩ := List.forall_mem_cons.1 hops
    obtain ⟨u, he, hu⟩ := runOps_cons_some hrun
    exact ih (h.of_exec hop he) hr hu

/-- Settles O30: a reported slot is `ReportClosed`, every operation but `ACQUIRE` keeps that, and under it every report is
dropped. -/
theorem firstReportWins : Obligations.FirstReportWins := by
  intro ops s t hr hops hrun rsp len code u he
  have hclosed : ReportClosed t := ReportClosed.of_runOps (fun _ _ => hr) hops hrun
  obtain he | he | he := he
  · exact hclosed.report_keeps (kind := .rsp) ⟨rsp, len, rfl⟩ he
  · exact hclosed.report_keeps (kind := .exc) ⟨code, rfl⟩ he
  · exact hclosed.report_keeps (kind := .tmo) rfl he

end Sys2Proof.Safety
end

/-! ## The verdict on a response -/
section

namespace Sys2Proof.Machine

variable {s : State} {cfg : Config} {rsp : List Byte} {len : Half}

/-! ### `VALIDATE`, one equation per check (R90) -/

theorem validateRsp_of_len_ne (valid : Bool) (count : Half) (rsp : List Byte) (hmin : cfg.pduSizeMin = 1) (hlen : len ≠ 3) :
    validateRsp cfg valid count rsp len = some excIllegalDataValue := by
  rw [validateRsp_eq cfg valid count rsp len hmin fun h => absurd h hlen, if_neg fun h => hlen h.1]

theorem validateRsp_of_not_pending (count : Half) (rsp : List Byte) (len : Half) (hmin : cfg.pduSizeMin = 1) :
    validateRsp cfg false count rsp len = some excIllegalDataValue := by
  rw [validateRsp_eq cfg false count rsp len hmin nofun, if_neg fun h => Bool.false_ne_true h.2.1]

theorem validateRsp_of_bytes (count : Half) (b0 b1 b2 : Byte) (more : List Byte) (hmin : cfg.pduSizeMin = 1) :
    validateRsp cfg true count (b0 :: b1 :: b2 :: more) 3 =
      some (if ube16 b1 b2 = count then excNone else excIllegalDataValue) := by
  rw [validateRsp_eq cfg true count (b0 :: b1 :: b2 :: more) 3 hmin fun _ _ => Nat.le_add_left 3 more.length]
  simp

/-- Settles O25: each clause is the verdict's equation at the check that decides. -/
theorem validateVerdict : Obligations.ValidateVerdict := by
  intro s rsp len hmin
  refine ⟨rfl, fun hlen => ?_, fun hpend => ?_, ?_⟩
  · exact giveVerdict_of_some (validateRsp_of_len_ne s.pendValid s.pendCount rsp hmin hlen)
  · exact giveVerdict_of_some (hpend ▸ validateRsp_of_not_pending s.pendCount rsp len hmin)
  · rintro b0 b1 b2 more rfl hpend rfl
    have he := validateRsp_of_bytes s.pendCount b0 b1 b2 more hmin
    rw [← hpend] at he
    refine ⟨fun heq => ?_, fun hne => ?_⟩
    · exact giveVerdict_of_some (he.trans (congrArg some (if_pos heq)))
    · exact giveVerdict_of_some (he.trans (congrArg some (if_neg hne)))

/-! ### What the two readers of a response owe to the verdict -/

theorem giveVerdict_head (b b' : Byte) (rest : List Byte) (len : Half) (s : State) :
    giveVerdict (b :: rest) len s = giveVerdict (b' :: rest) len s := by
  rw [giveVerdict, validateRsp_head s.cfg s.pendValid s.pendCount b b' rest len, ← giveVerdict]

theorem execReportRsp_head (b b' : Byte) (rest : List Byte) (len : Half) (s : State) :
    execReportRsp (b :: rest) len s = execReportRsp (b' :: rest) len s := by
  rw [execReportRsp, validateRsp_head s.cfg s.pendValid s.pendCount b b' rest len, ← execReportRsp]

/-- Settles O26: all three read the response through `validateRsp` alone, which does not read byte 0. -/
theorem functionCodeOfResponseIsNotRead : Obligations.FunctionCodeOfResponseIsNotRead :=
  fun s b b' rest len written =>
    ⟨giveVerdict_head b b' rest len s, execReportRsp_head b b' rest len s, giveVerdict_head b b' (be16 written) 3 s⟩

theorem giveVerdict_of_none (he : validateRsp s.cfg s.pendValid s.pendCount rsp len = none) :
    giveVerdict rsp len s = .fault .rspByteAbsent := by
  simp only [giveVerdict, he]

theorem execReportRsp_of_none (he : validateRsp s.cfg s.pendValid s.pendCount rsp len = none) :
    execReportRsp rsp len s = .fault .rspByteAbsent := by
  simp only [execReportRsp, he]

/-- Settles O58: without the bytes it reads there is no verdict, and both stop there. -/
theorem responseWithoutItsBytesFaults : Obligations.ResponseWithoutItsBytesFaults := by
  intro s rsp hmin hpend hshort
  have he : validateRsp s.cfg s.pendValid s.pendCount rsp 3 = none :=
    hpend ▸ validateRsp_eq_none s.cfg s.pendCount rsp hmin hshort
  exact ⟨giveVerdict_of_none he, execReportRsp_of_none he⟩

end Sys2Proof.Machine
end

/-! ## The byte order of an address -/
section

namespace Sys2Proof.Machine

/-- Settles O6. -/
theorem bigEndianAddressRoundTrip : Obligations.BigEndianAddressRoundTrip := fun v =>
  ⟨_, _, _, _, rfl, ube32_be32 v, ube32_toNat _ _ _ _⟩

end Sys2Proof.Machine
end

/-! ## The call entry `ISSUE` -/
section

namespace Sys2Proof.Machine

variable {s : State} {i : Nat} {c : Ctx} {slave : Byte} {dptr : Nat} {dsize : Half}

/-! ### The arms that are not accepted, one equation each, in R106's order (R93) -/

theorem enterCall_of_not_idle (acc : Ctx → State) (hc : s.ctxs[i]? = some c) (hp : c.phase ≠ .idle) :
    enterCall acc i slave dptr dsize s = refuse s :=
  (onCtx_some _ hc).trans (if_pos hp)

theorem enterCall_of_bad_slave (acc : Ctx → State) (hc : s.ctxs[i]? = some c) (hp : c.phase = .idle)
    (ha : ¬ argchk s.cfg slave = true) :
    enterCall acc i slave dptr dsize s = .next (returnCode i c .illegalArgument s) := by
  rw [enterCall, onCtx_some _ hc, if_neg (not_not.2 hp), if_pos (Bool.not_eq_true _ ▸ ha)]

theorem enterCall_of_capacity (acc : Ctx → State) (hc : s.ctxs[i]? = some c) (hp : c.phase = .idle)
    (ha : argchk s.cfg slave = true) (hk : capchk s.cfg dptr dsize = .capacity) :
    enterCall acc i slave dptr dsize s = .next (raiseFault i c (.capacity i) s) := by
  simp [enterCall, onCtx_some _ hc, hp, ha, hk]

theorem enterCall_of_pointer (acc : Ctx → State) (hc : s.ctxs[i]? = some c) (hp : c.phase = .idle)
    (ha : argchk s.cfg slave = true) (hk : capchk s.cfg dptr dsize = .pointer) :
    enterCall acc i slave dptr dsize s = .next (raiseFault i c (.pointer i) s) := by
  simp [enterCall, onCtx_some _ hc, hp, ha, hk]

/-- Settles O8: each clause is an arm's equation, its ranges being those of R71 and R72. -/
theorem issueArms : Obligations.IssueArms := by
  intro s i c slave baddr dptr dsize tmo hc
  refine ⟨rfl, enterCall_of_not_idle _ hc, fun hp hrange => ?_, fun hp hlo hhi hcap => ?_,
    fun hp hlo hhi hcap hpos hptr => ?_, fun hp hlo hhi hcap hptr => ?_⟩
  · exact enterCall_of_bad_slave _ hc hp (mt (argchk_iff s.cfg slave).1 hrange)
  · exact enterCall_of_capacity _ hc hp ((argchk_iff s.cfg slave).2 ⟨hlo, hhi⟩)
      ((capchk_capacity_iff s.cfg dptr dsize).2 hcap)
  · exact enterCall_of_pointer _ hc hp ((argchk_iff s.cfg slave).2 ⟨hlo, hhi⟩)
      ((capchk_pointer_iff s.cfg dptr dsize).2 ⟨hcap, hpos, hptr⟩)
  · exact enterCall_accepted _ hc hp ((argchk_iff s.cfg slave).2 ⟨hlo, hhi⟩)
      ((capchk_ok_iff s.cfg dptr dsize).2 ⟨hcap, hptr⟩)

end Sys2Proof.Machine
end

/-! ## The engine's own moves in a composite call -/
section

namespace Sys2Proof.Machine

variable {s : State} {i : Nat} {c : Ctx} {op : Instr}

theorem step_of_no_call (hin : s.inputs = []) (hcalls : s.calls = []) : step s = .next s := by
  simp only [step, hin, engineTurn, hcalls]

theorem step_of_call {rest : List Nat} (hin : s.inputs = []) (hcalls : s.calls = i :: rest)
    (hc : s.ctxs[i]? = some c) (hop : engineOp i c.phase = some op) :
    step s = exec op { s with calls := rest ++ [i] } := by
  simp only [step, hin, engineTurn, hcalls, hc, Option.bind_some, hop]

/-- Settles O37. -/
theorem engineMovesWhenNothingIsPresented : Obligations.EngineMovesWhenNothingIsPresented := fun _ hin =>
  ⟨step_of_no_call hin, fun _ _ _ _ => step_of_call hin⟩

/-- Settles O11: the engine's move is the `WAKE` that returns; of the calls in progress it ends its own, then at the back. -/
theorem wbreqReturnsTheOutcome : Obligations.WbreqReturnsTheOutcome := by
  intro s i rest c code hin hcalls hc hp hcode
  have hrest : (rest ++ [i]).filter (· ≠ i) = rest.filter (· ≠ i) := by simp
  rw [step_of_call hin hcalls hc (by rw [hp]; rfl), ← hrest]
  exact execWake_of_outcome (s := { s with calls := rest ++ [i] }) hc hp rfl hcode

/-! ### The request that stands in the buffer -/

/-- Read back, the first bytes of `TXBUF` are the request that was built (R47). -/
theorem buildRequest_readBytes (i : Nat) (c : Ctx) (s : State) :
    readBytes (buildRequest i c s).txByte 0 (7 + c.arg.dsize.toNat) = requestBytes s c.arg := by
  rw [← requestBytes_length s c.arg, readBytes_eq_iff]
  intro k hk
  rw [buildRequest_txByte, List.getElem?_eq_getElem hk, Option.getD_some]

theorem decodeAll_requestBytes (s : State) (a : Arg) :
    decodeAll .req (requestBytes s a) = .ok (.reqFrame s.cfg.fcWriteBlock a.baddr a.dsize (callData s a)) :=
  decodeAll_of_decode (decodeReq_reqBytes _ _ (readBytes_length _ _ _))

/-- Settles O19. -/
theorem builtRequestDecodes : Obligations.BuiltRequestDecodes := by
  intro s t i c hc hp hbase he
  obtain ⟨d, hd, ⟨hne, -⟩ | ⟨-, -, rfl⟩⟩ := execBuild_next he
  · cases hc.symm.trans hd
    exact absurd hp hne
  · cases hc.symm.trans hd
    exact ⟨buildRequest_readBytes i c s ▸ decodeAll_requestBytes s c.arg, hbase ▸ rfl⟩

end Sys2Proof.Machine

namespace Sys2Proof.Safety

open Sys2Proof.Machine

variable {s t : State} {i : Nat} {c : Ctx} {op : Instr}

/-! ### A composite call left alone runs to the completion wait -/

/-- Nothing is presented, and the call of context `i` is the only composite in progress: every step is its engine's. -/
structure SoleCall (s : State) (i : Nat) (c : Ctx) : Prop where
  inputs : s.inputs = []
  calls : s.calls = [i]
  ctx : s.ctxs[i]? = some c

theorem SoleCall.step_eq (h : SoleCall s i c) (hop : engineOp i c.phase = some op) : step s = exec op s := by
  rw [step_of_call h.inputs h.calls h.ctx hop, List.nil_append, ← h.calls]

theorem SoleCall.acquire (h : SoleCall s i c) (hp : c.phase = .acquiring) (ho : s.lockOwner = .none) :
    step s = .next (takeSlot i c s) ∧ SoleCall (takeSlot i c s) i { c with phase := .serializing } :=
  ⟨(h.step_eq (op := .acquire i) (by rw [hp]; rfl)).trans (execAcquire_of_free h.ctx hp ho),
    h.inputs, h.calls, s.setCtx_get_self _ h.ctx⟩

theorem SoleCall.build (h : SoleCall s i c) (hinv : Invariant s) (hp : c.phase = .serializing) :
    step s = .next (buildRequest i c s) ∧ SoleCall (buildRequest i c s) i { c with phase := .locked } := by
  obtain ⟨hdata, hbuf⟩ := hinv.build_in_range h.ctx hp
  exact ⟨(h.step_eq (op := .build i) (by rw [hp]; rfl)).trans (execBuild_of_in_range h.ctx hp hdata hbuf),
    h.inputs, h.calls, s.setCtx_get_self _ h.ctx⟩

theorem SoleCall.post (h : SoleCall s i c) (hp : c.phase = .locked) :
    ∃ t, step s = .next t ∧ SoleCall t i { c with phase := .sent } ∧
      t = ((s.emit (.txEvent i)).setCtx i { c with phase := .sent }).respond .done :=
  ⟨_, (h.step_eq (op := .post i) (by rw [hp]; rfl)).trans (execPost_of_locked h.ctx hp),
    ⟨h.inputs, h.calls, (s.emit (.txEvent i)).setCtx_get_self _ h.ctx⟩, rfl⟩

theorem SoleCall.wait (h : SoleCall s i c) (hp : c.phase = .sent) :
    step s = .next ((s.setCtx i { c with phase := .awaiting }).respond .done) :=
  (h.step_eq (op := .wait i) (by rw [hp]; rfl)).trans (execWait_of_sent h.ctx hp)

theorem run_succ (k : Nat) (h : step s = .next t) :
    Host.Core.run Sys2Proof.core (k + 1) s = Host.Core.run Sys2Proof.core k t := by
  have hcore : Sys2Proof.core.step s = .next t := h
  simp only [Host.Core.run, hcore]

/-- Settles O10: the four steps one after the other; the invariants keep `BUILD` in range, and after it the transmit state
and the pending registers stay. -/
theorem wbreqRunsToTheWait : Obligations.WbreqRunsToTheWait := by
  intro s i c hinv hin hcalls hc hp ho
  obtain ⟨hacquire, h1⟩ := SoleCall.acquire ⟨hin, hcalls, hc⟩ hp ho
  obtain ⟨hbuild, h2⟩ := h1.build (hinv.takeSlot hc hp ho) rfl
  obtain ⟨t, hpost, h3, rfl⟩ := h2.post rfl
  have hwait := h3.wait rfl
  have hrun := (((run_succ 3 hacquire).trans (run_succ 2 hbuild)).trans (run_succ 1 hpost)).trans (run_succ 0 hwait)
  obtain ⟨-, -, -, hbase, -⟩ := hinv.cfgLegal
  refine ⟨_, hrun, ?_, hcalls, rfl, rfl, rfl, rfl, rfl, rfl, hbase ▸ rfl, ?_⟩
  · simp [buildRequest, takeSlot]
  · exact buildRequest_readBytes i { c with phase := .serializing } (takeSlot i c s)

/-! ### Contexts in flight -/

/-- Settles O44: both are in flight, so both own the slot (I-1). -/
theorem atMostOneInFlight : Obligations.AtMostOneInFlight := by
  intro s i j c d h hc hd hfc hfd
  obtain ⟨hi, -⟩ := h.inFlightOwns i c hc hfc
  obtain ⟨hj, -⟩ := h.inFlightOwns j d hd hfd
  exact ⟨Owner.ctx.inj (hi.symm.trans hj), by simp [hi], by simp [hi]⟩

end Sys2Proof.Safety
end

/-! ## What an operation writes in the registers of a context -/
section

namespace Sys2Proof.Safety

open Sys2Proof.Machine

variable {s t : State} {op : Instr} {i : Nat} {c d : Ctx}

/-- A call entry of context `i` (R93, R94) with these operands. -/
def EntryOf (op : Instr) (i : Nat) (slave : Byte) (dptr : Nat) (dsize : Half) : Prop :=
  ∃ baddr tmo, op = .issue i slave baddr dptr dsize tmo ∨ op = .wbreq i slave baddr dptr dsize tmo

/-- The registers of context `i` go from the first value to the second, in state `s`: one row for each arm of an operation
that writes them. -/
inductive CtxWrite (s : State) : Instr → Nat → Ctx → Ctx → Prop where
  | badArgument {op : Instr} {i : Nat} {slave : Byte} {dptr : Nat} {dsize : Half} {c : Ctx}
      (hop : EntryOf op i slave dptr dsize) (hp : c.phase = .idle) :
      CtxWrite s op i c { c with phase := .idle, result := .illegalArgument, resultValid := true }
  | faulted {op : Instr} {i : Nat} {slave : Byte} {dptr : Nat} {dsize : Half} {c : Ctx}
      (hop : EntryOf op i slave dptr dsize) (hp : c.phase = .idle) (ha : argchk s.cfg slave = true)
      (hk : capchk s.cfg dptr dsize ≠ .ok) : CtxWrite s op i c { c with phase := .faulted, resultValid := false }
  | accepted {op : Instr} {i : Nat} {slave : Byte} {dptr : Nat} {dsize : Half} {c : Ctx}
      (hop : EntryOf op i slave dptr dsize) (hp : c.phase = .idle) (ha : argchk s.cfg slave = true)
      (hk : capchk s.cfg dptr dsize = .ok) (a : Arg) :
      CtxWrite s op i c { c with phase := .acquiring, arg := a, outcome := .empty, resultValid := false }
  | acquired {i : Nat} {c : Ctx} (hp : c.phase = .acquiring) (ho : s.lockOwner = .none) :
      CtxWrite s (.acquire i) i c { c with phase := .serializing }
  | busy {i : Nat} {c : Ctx} (hp : c.phase = .acquiring) (ho : s.lockOwner ≠ .none)
      (ht : c.arg.tmo ≠ s.cfg.infiniteWait) :
      CtxWrite s (.acquire i) i c { c with phase := .idle, result := .masterBusy, resultValid := true }
  | built {i : Nat} {c : Ctx} (hp : c.phase = .serializing) : CtxWrite s (.build i) i c { c with phase := .locked }
  | posted {i : Nat} {c : Ctx} (hp : c.phase = .locked) : CtxWrite s (.post i) i c { c with phase := .sent }
  | waits {i : Nat} {c : Ctx} (hp : c.phase = .sent) : CtxWrite s (.wait i) i c { c with phase := .awaiting }
  | returned {i : Nat} {c : Ctx} {code : ErrorCode} (hp : c.phase = .awaiting) (ho : c.outcome ≠ .empty)
      (hcode : translateOutcome c.outcome = some code) :
      CtxWrite s (.wake i) i c { c with phase := .idle, outcome := .empty, result := code, resultValid := true }
  | latched {op : Instr} {kind : ReportKind} {i : Nat} {c : Ctx} (hop : ReportOf op kind) (ho : s.lockOwner = .ctx i)
      (o : OutcomeReg) : CtxWrite s op i c { c with outcome := o }

/-- Every context is there after the operation, as it was or written by one of its arms. -/
def WritesCtxs (op : Instr) (s t : State) : Prop :=
  ∀ (k : Nat) (c : Ctx), s.ctxs[k]? = some c → ∃ d, t.ctxs[k]? = some d ∧ (d = c ∨ CtxWrite s op k c d)

theorem WritesCtxs.of_eq (h : t.ctxs = s.ctxs) : WritesCtxs op s t := fun _ c hc => ⟨c, h ▸ hc, .inl rfl⟩

theorem WritesCtxs.of_set (hc : s.ctxs[i]? = some c) (hw : CtxWrite s op i c d) (h : t.ctxs = s.ctxs.set i d) :
    WritesCtxs op s t := fun k e he => by
  by_cases hki : k = i
  · subst hki
    cases hc.symm.trans he
    exact ⟨d, h ▸ s.setCtx_get_self d hc, .inr hw⟩
  · exact ⟨e, h ▸ (s.setCtx_get_other d hki).trans he, .inl rfl⟩

theorem enterCall_writesCtxs {acc : Ctx → State} {slave : Byte} {dptr : Nat} {dsize : Half} (a : Arg)
    (hop : EntryOf op i slave dptr dsize)
    (hacc : ∀ c, (acc c).ctxs =
      s.ctxs.set i { c with phase := .acquiring, arg := a, outcome := .empty, resultValid := false })
    (he : enterCall acc i slave dptr dsize s = .next t) : WritesCtxs op s t := by
  obtain ⟨c, hc, hcase⟩ := enterCall_next he
  rcases hcase with ⟨-, rfl⟩ | ⟨hp, -, rfl⟩ | ⟨hp, ha, hk, rfl⟩ | ⟨hp, ha, hk, rfl⟩ | ⟨hp, ha, hk, rfl⟩
  · exact .of_eq rfl
  · exact .of_set hc (.badArgument hop hp) rfl
  · exact .of_set hc (.faulted hop hp ha (by simp [hk])) rfl
  · exact .of_set hc (.faulted hop hp ha (by simp [hk])) rfl
  · exact .of_set hc (.accepted hop hp ha hk a) (hacc c)

theorem execAcquire_writesCtxs (he : execAcquire i s = .next t) : WritesCtxs (.acquire i) s t := by
  obtain ⟨c, hc, hcase⟩ := execAcquire_next he
  rcases hcase with ⟨-, rfl⟩ | ⟨hp, ho, rfl⟩ | ⟨-, -, -, rfl⟩ | ⟨hp, ho, ht, rfl⟩ | ⟨-, -, -, rfl⟩
  · exact .of_eq rfl
  · exact .of_set hc (.acquired hp ho) rfl
  · exact .of_eq rfl
  · exact .of_set hc (.busy hp ho ht) rfl
  · exact .of_eq rfl

theorem execBuild_writesCtxs (he : execBuild i s = .next t) : WritesCtxs (.build i) s t := by
  obtain ⟨c, hc, ⟨-, rfl⟩ | ⟨hp, -, rfl⟩⟩ := execBuild_next he
  · exact .of_eq rfl
  · exact .of_set hc (.built hp) rfl

theorem execPost_writesCtxs (he : execPost i s = .next t) : WritesCtxs (.post i) s t := by
  obtain ⟨c, hc, ⟨-, rfl⟩ | ⟨hp, rfl⟩⟩ := execPost_next he
  · exact .of_eq rfl
  · exact .of_set hc (.posted hp) rfl

theorem execWait_writesCtxs (he : execWait i s = .next t) : WritesCtxs (.wait i) s t := by
  obtain ⟨c, hc, ⟨-, rfl⟩ | ⟨hp, rfl⟩⟩ := execWait_next he
  · exact .of_eq rfl
  · exact .of_set hc (.waits hp) rfl

theorem execWake_writesCtxs (he : execWake i s = .next t) : WritesCtxs (.wake i) s t := by
  obtain ⟨c, hc, ⟨-, rfl⟩ | ⟨-, -, rfl⟩ | ⟨hp, ho, code, hcode, rfl⟩⟩ := execWake_next he
  · exact .of_eq rfl
  · exact .of_eq rfl
  · exact .of_set hc (.returned hp ho hcode) rfl

/-- A report that is accepted writes the outcome of the context that satisfies `ACC(i)`, the owner of the slot. -/
theorem WritesCtxs.report {kind : ReportKind} (hop : ReportOf op kind) (ha : Accepts s i) (hc : s.ctxs[i]? = some c)
    (o : OutcomeReg) (r : Response) : WritesCtxs op s (report i c o r s) :=
  .of_set hc (.latched hop ha.1 o) rfl

theorem report_writesCtxs {kind : ReportKind} (hop : ReportOf op kind) (he : exec op s = .next t) :
    WritesCtxs op s t := by
  cases kind with
  | rsp =>
    obtain ⟨rsp, len, rfl⟩ := id hop
    obtain ⟨e, -, ⟨i, c, ha, hc, rfl⟩ | ⟨-, rfl⟩⟩ := execReportRsp_next he
    · exact .report hop ha hc _ _
    · exact .of_eq rfl
  | exc =>
    obtain ⟨code, rfl⟩ := id hop
    obtain ⟨i, c, ha, hc, -, rfl⟩ | ⟨-, rfl⟩ := execReportExc_next he
    · exact .report hop ha hc _ _
    · exact .of_eq rfl
  | tmo =>
    obtain rfl : op = .reportTmo := id hop
    obtain ⟨i, c, ha, hc, rfl⟩ | ⟨-, rfl⟩ := execReportTmo_next he
    · exact .report hop ha hc _ _
    · exact .of_eq rfl

theorem giveVerdict_writesCtxs {rsp : List Byte} {len : Half} (he : giveVerdict rsp len s = .next t) :
    WritesCtxs op s t := by
  obtain ⟨e, -, rfl⟩ := giveVerdict_next he
  exact .of_eq rfl

/-- What an operation does to the registers of the contexts. -/
theorem exec_writesCtxs (he : exec op s = .next t) : WritesCtxs op s t := by
  cases op with
  | issue i slave baddr dptr dsize tmo =>
    exact enterCall_writesCtxs { slave, baddr, dptr, dsize, tmo } ⟨baddr, tmo, .inl rfl⟩ (fun _ => rfl) he
  | wbreq i slave baddr dptr dsize tmo =>
    exact enterCall_writesCtxs { slave, baddr, dptr, dsize, tmo } ⟨baddr, tmo, .inr rfl⟩ (fun _ => rfl) he
  | acquire i => exact execAcquire_writesCtxs he
  | build i => exact execBuild_writesCtxs he
  | post i => exact execPost_writesCtxs he
  | wait i => exact execWait_writesCtxs he
  | wake i => exact execWake_writesCtxs he
  | validate rsp len => exact giveVerdict_writesCtxs he
  | reportRsp rsp len => exact report_writesCtxs (kind := .rsp) ⟨rsp, len, rfl⟩ he
  | reportExc code => exact report_writesCtxs (kind := .exc) ⟨code, rfl⟩ he
  | reportTmo => exact report_writesCtxs (kind := .tmo) rfl he
  | release => exact .of_eq (execRelease_keeps he).1.ctxs
  | xacquire => exact .of_eq (execXacquire_keeps he).ctxs
  | xwrite x => exact .of_eq (execXwrite_keeps he).ctxs
  | xrelease => exact .of_eq (execXrelease_keeps he).ctxs
  | txread =>
    obtain ⟨r, rfl, -⟩ := execTxread_next he
    exact .of_eq rfl
  | reservedOpidF => cases he
  | reqFrame fc baddr count data =>
    obtain ⟨same, rfl⟩ := execReqFrame_next he
    exact .of_eq rfl
  | rspFrame fc written => exact giveVerdict_writesCtxs he

/-- Settles O48: the arms that write a context, less the two that leave its `STATE`, are the rows of the table. -/
theorem transitionTable : Obligations.TransitionTable := by
  intro s t op k c d he hc hd hne
  obtain ⟨e, he', hcase⟩ := exec_writesCtxs he k c hc
  cases hd.symm.trans he'
  rcases hcase with rfl | hw
  · exact absurd rfl hne
  cases hw with
  | badArgument hop hp => exact absurd hp hne
  | latched hop ho o => exact absurd rfl hne
  | faulted hop hp ha hk =>
    obtain ⟨baddr, tmo, hop⟩ := hop
    exact .inl ⟨_, baddr, _, _, tmo, hop, hp, ha, .inl ⟨hk, rfl⟩⟩
  | accepted hop hp ha hk a =>
    obtain ⟨baddr, tmo, hop⟩ := hop
    exact .inl ⟨_, baddr, _, _, tmo, hop, hp, ha, .inr ⟨hk, rfl⟩⟩
  | acquired hp ho => exact .inr (.inl ⟨rfl, hp, ho, rfl⟩)
  | busy hp ho ht => exact .inr (.inr (.inl ⟨rfl, hp, ho, ht, rfl, rfl, rfl⟩))
  | built hp => exact .inr (.inr (.inr (.inl ⟨rfl, hp, rfl⟩)))
  | posted hp => exact .inr (.inr (.inr (.inr (.inl ⟨rfl, hp, rfl⟩))))
  | waits hp => exact .inr (.inr (.inr (.inr (.inr (.inl ⟨rfl, hp, rfl⟩)))))
  | returned hp ho hcode => exact .inr (.inr (.inr (.inr (.inr (.inr ⟨rfl, hp, ho, rfl, rfl, hcode⟩)))))

theorem EntryOf.exists_operands {slave : Byte} {dptr : Nat} {dsize : Half} (h : EntryOf op i slave dptr dsize) :
    ∃ slave baddr dptr dsize tmo, op = .issue i slave baddr dptr dsize tmo ∨ op = .wbreq i slave baddr dptr dsize tmo := by
  obtain ⟨baddr, tmo, hop⟩ := h
  exact ⟨slave, baddr, dptr, dsize, tmo, hop⟩

theorem ReportOf.isReport {kind : ReportKind} (h : ReportOf op kind) :
    (∃ rsp len, op = .reportRsp rsp len) ∨ (∃ code, op = .reportExc code) ∨ op = .reportTmo := by
  cases kind with
  | rsp => exact .inl h
  | exc => exact .inr (.inl h)
  | tmo => exact .inr (.inr h)

/-- Settles O49: every arm that writes a context names it, but an accepted report. -/
theorem privateRegistersStayPrivate : Obligations.PrivateRegistersStayPrivate := by
  intro s t op k c he hc
  obtain ⟨d, hd, hcase⟩ := exec_writesCtxs he k c hc
  refine ⟨d, hd, ?_⟩
  rcases hcase with rfl | hw
  · exact .inl rfl
  refine .inr ?_
  cases hw with
  | badArgument hop hp => exact .inl hop.exists_operands
  | faulted hop hp ha hk => exact .inl hop.exists_operands
  | accepted hop hp ha hk a => exact .inl hop.exists_operands
  | acquired hp ho => exact .inr (.inl rfl)
  | busy hp ho ht => exact .inr (.inl rfl)
  | built hp => exact .inr (.inr (.inl rfl))
  | posted hp => exact .inr (.inr (.inr (.inl rfl)))
  | waits hp => exact .inr (.inr (.inr (.inr (.inl rfl))))
  | returned hp ho hcode => exact .inr (.inr (.inr (.inr (.inr (.inl rfl)))))
  | latched hop ho o => exact .inr (.inr (.inr (.inr (.inr (.inr ⟨hop.isReport, ho, rfl⟩)))))

end Sys2Proof.Safety
end

/-! ## Blocked contexts, and a machine at rest -/
section

namespace Sys2Proof.Safety

open Sys2Proof.Machine

variable {s t : State} {op : Instr} {i : Nat} {c d : Ctx}

/-! ### The engine's operation of a context in progress -/

/-- The engine operation of a blocked context has no step: it answers `blocked` and writes no register (R97). -/
theorem Blocked.engine_blocked (h : Blocked s c) (hc : s.ctxs[i]? = some c) (hop : engineOp i c.phase = some op) :
    exec op s = block s := by
  rcases h with ⟨hp, ho, ht⟩ | ⟨hp, ho⟩
  · rw [hp] at hop
    cases hop
    exact execAcquire_of_infinite_wait hc hp ho ht
  · rw [hp] at hop
    cases hop
    exact execWake_of_empty hc hp ho

/-- The engine operation moves its context on, or goes on waiting for a held slot. -/
def MovesOn (s : State) (i : Nat) (c : Ctx) (op : Instr) : Prop :=
  ∃ t d, exec op s = .next t ∧ t.ctxs[i]? = some d ∧
    (d.phase ≠ c.phase ∨ (c.phase = .acquiring ∧ s.lockOwner ≠ .none ∧ t = { s with out := .blocked, draws := t.draws }))

theorem MovesOn.of_set (hc : s.ctxs[i]? = some c) (he : exec op s = .next t) (ht : t.ctxs = s.ctxs.set i d)
    (hp : d.phase ≠ c.phase) : MovesOn s i c op :=
  ⟨t, d, he, ht ▸ s.setCtx_get_self d hc, .inl hp⟩

/-- With the slot held, a finite timeout that has expired ends the call, and one that has not goes on waiting (R75). -/
theorem movesOn_acquire (hc : s.ctxs[i]? = some c) (hp : c.phase = .acquiring) (hb : ¬ Blocked s c) :
    MovesOn s i c (.acquire i) := by
  by_cases ho : s.lockOwner = .none
  · exact .of_set hc (execAcquire_of_free hc hp ho) rfl (by simp [hp])
  · have ht : c.arg.tmo ≠ s.cfg.infiniteWait := fun ht => hb (.inl ⟨hp, ho, ht⟩)
    have he := execAcquire_of_finite_wait hc hp ho ht
    by_cases hexp : Config.lockTimeoutExpired s.draws = true
    · exact .of_set hc (he.trans (if_pos hexp)) rfl (by simp [hp])
    · exact ⟨_, c, he.trans (if_neg hexp), hc, .inr ⟨hp, ho, rfl⟩⟩

theorem movesOn_build (h : Invariant s) (hc : s.ctxs[i]? = some c) (hp : c.phase = .serializing) :
    MovesOn s i c (.build i) := by
  obtain ⟨hdata, hbuf⟩ := h.build_in_range hc hp
  exact .of_set hc (execBuild_of_in_range hc hp hdata hbuf) rfl (by simp [hp])

theorem movesOn_wake (hc : s.ctxs[i]? = some c) (hp : c.phase = .awaiting) (hb : ¬ Blocked s c) :
    MovesOn s i c (.wake i) := by
  have ho : translateOutcome c.outcome ≠ none := fun hn => hb (.inr ⟨hp, (translateOutcome_eq_none_iff _).1 hn⟩)
  obtain ⟨code, hcode⟩ := Option.ne_none_iff_exists'.1 ho
  exact .of_set hc (execWake_of_outcome hc hp rfl hcode) rfl (by simp [hp])

theorem Invariant.movesOn (h : Invariant s) (hc : s.ctxs[i]? = some c) (hop : engineOp i c.phase = some op)
    (hb : ¬ Blocked s c) : MovesOn s i c op := by
  cases hp : c.phase <;> rw [hp] at hop <;> cases hop
  case acquiring => exact movesOn_acquire hc hp hb
  case serializing => exact movesOn_build h hc hp
  case locked => exact .of_set hc (execPost_of_locked hc hp) rfl (by simp [hp])
  case sent => exact .of_set hc (execWait_of_sent hc hp) rfl (by simp [hp])
  case awaiting => exact movesOn_wake hc hp hb

/-! ### What rest does not see -/

theorem AtRest.idle (h : AtRest s) (hc : s.ctxs[i]? = some c) : c.phase = .idle := by
  obtain ⟨hidle, -⟩ := h
  exact hidle c (List.mem_of_getElem? hc)

theorem AtRest.owner (h : AtRest s) : s.lockOwner = .none := by
  obtain ⟨-, -, -, ho, -⟩ := h
  exact ho

theorem AtRest.respond (h : AtRest s) (r : Response) : AtRest (s.respond r) := h

theorem AtRest.discardReport (h : AtRest s) (kind : ReportKind) (exc : Option Exc) : AtRest (discardReport kind exc s) := h

theorem AtRest.tail {x : Input} {rest : List Input} (h : AtRest s) (hin : s.inputs = x :: rest) :
    isCall x = false ∧ AtRest { s with inputs := rest } := by
  obtain ⟨hidle, hcalls, hinputs, ho, hf⟩ := h
  obtain ⟨hx, hrest⟩ := List.forall_mem_cons.1 (hin ▸ hinputs)
  exact ⟨hx, hidle, hcalls, hrest, ho, hf⟩

theorem AtRest.resetInPlace (h : AtRest s) : AtRest (resetInPlace s) := by
  obtain ⟨-, -, hinputs, -, -⟩ := h
  refine ⟨fun c hc => ?_, rfl, hinputs, rfl, rfl⟩
  rw [List.eq_of_mem_replicate hc]
  rfl

/-! ### What is presented to a machine at rest -/

theorem AtRest.of_refuse {o : Out} (h : AtRest s) (ho : o = refuse s) (he : o = .next t) : AtRest t := by
  cases ho.symm.trans he
  exact h.respond _

theorem AtRest.of_onCtx {f : Ctx → Out} (h : AtRest s) (hf : ∀ c, c.phase = .idle → f c = refuse s)
    (he : onCtx i s f = .next t) : AtRest t := by
  obtain ⟨c, hc, he⟩ := onCtx_next he
  exact h.of_refuse (hf c (h.idle hc)) he

/-- No context is in a phase that enables an engine operation (R95). -/
theorem AtRest.of_engine (h : AtRest s) (he : exec op s = .next t) (ha : initiator op = some .engine) : AtRest t := by
  cases op with
  | acquire i => exact h.of_onCtx (fun c hp => if_pos (by simp [hp])) he
  | build i => exact h.of_onCtx (fun c hp => if_pos (by simp [hp])) he
  | post i => exact h.of_onCtx (fun c hp => if_neg (by simp [hp])) he
  | wait i => exact h.of_onCtx (fun c hp => if_neg (by simp [hp])) he
  | wake i => exact h.of_onCtx (fun c hp => if_neg (by simp [hp])) he
  | _ => cases ha

theorem AtRest.of_report (h : AtRest s) {kind : ReportKind} (hop : ReportOf op kind) (he : exec op s = .next t) :
    AtRest t := by
  have hclosed : ReportClosed s := .of_not_ctx (by simp [h.owner])
  obtain ⟨exc, rfl⟩ := hclosed.report_discarded hop he
  exact h.discardReport kind exc

theorem AtRest.of_verdict {rsp : List Byte} {len : Half} (h : AtRest s) (he : giveVerdict rsp len s = .next t) :
    AtRest t := by
  obtain ⟨e, -, rfl⟩ := giveVerdict_next he
  exact h.respond _

/-- No owner of the slot is open to a report (R89), and the dispatcher's other operations only give a result. -/
theorem AtRest.of_dispatcher (h : AtRest s) (he : exec op s = .next t) (ha : initiator op = some .dispatcher) :
    AtRest t := by
  cases op with
  | validate rsp len => exact h.of_verdict he
  | reportRsp rsp len => exact h.of_report (kind := .rsp) ⟨rsp, len, rfl⟩ he
  | reportExc code => exact h.of_report (kind := .exc) ⟨code, rfl⟩ he
  | reportTmo => exact h.of_report (kind := .tmo) rfl he
  | txread =>
    obtain ⟨r, rfl, -⟩ := execTxread_next he
    exact h.respond r
  | reqFrame fc baddr count data =>
    obtain ⟨same, rfl⟩ := execReqFrame_next he
    exact h.respond _
  | rspFrame fc written => exact h.of_verdict he
  | _ => cases ha

/-- The slot is free, so there is nothing to release, and nothing to write as its holder. -/
theorem AtRest.of_lockUser (h : AtRest s) (he : exec op s = .next t) (hx : op ≠ .xacquire)
    (ha : initiator op = some .completionPath ∨ initiator op = some .otherRequester) : AtRest t := by
  have hctx : ∀ i, s.lockOwner ≠ .ctx i := by simp [h.owner]
  have hext : s.lockOwner ≠ .ext := by simp [h.owner]
  cases op with
  | release => exact h.of_refuse (execRelease_of_not_ctx hctx) he
  | xacquire => exact absurd rfl hx
  | xwrite x => exact h.of_refuse (execXwrite_of_not_ext hext x) he
  | xrelease => exact h.of_refuse (execXrelease_of_not_ext hext) he
  | _ => rcases ha with ha | ha <;> cases ha

theorem AtRest.of_exec (h : AtRest s) (he : exec op s = .next t) (hcall : initiator op ≠ some .caller)
    (hx : op ≠ .xacquire) : AtRest t := by
  obtain ⟨a, ha, -⟩ := exec_agentKeeps he
  cases a with
  | caller => exact absurd ha hcall
  | engine => exact h.of_engine he ha
  | dispatcher => exact h.of_dispatcher he ha
  | completionPath => exact h.of_lockUser he hx (.inl ha)
  | otherRequester => exact h.of_lockUser he hx (.inr ha)

/-- What comes on the interface of a frame is a frame, or a response as `VALIDATE` receives it: the dispatcher's (R57). -/
theorem initiator_of_frame {f : Format} {bytes : List Byte} (hf : f ≠ .op) (hd : decodeAll f bytes = .ok op) :
    initiator op = some .dispatcher := by
  cases f with
  | op => exact absurd rfl hf
  | req =>
    obtain ⟨-, hformat, -⟩ := decodedBytesReencode .req bytes op nofun hd
    cases op <;> cases hformat
    rfl
  | rsp =>
    obtain ⟨-, hrsp⟩ := decodedIsWellFormed .rsp bytes op hd
    obtain ⟨fc, hi, lo, -, rfl⟩ | ⟨-, len, -, rfl⟩ := hrsp rfl <;> rfl

theorem AtRest.of_presented_op {bytes : List Byte} (h : AtRest s) (hcall : isCall (.op bytes) = false)
    (hd : decodeAll .op bytes = .ok op) (he : exec op s = .next t) : AtRest t ∨ op = .xacquire := by
  have hinit : initiator op ≠ some .caller := by simpa [isCall, hd] using hcall
  by_cases hx : op = .xacquire
  · exact .inr hx
  · exact .inl (h.of_exec he hinit hx)

theorem AtRest.of_presented_frame {f : Format} {bytes : List Byte} (h : AtRest s) (hf : f ≠ .op)
    (hd : decodeAll f bytes = .ok op) (he : exec op s = .next t) : AtRest t :=
  h.of_dispatcher he (initiator_of_frame hf hd)

theorem AtRest.present {x : Input} (h : AtRest s) (hcall : isCall x = false) (he : present x s = .next t) :
    AtRest t ∨ ∃ bytes, x = .op bytes ∧ decodeAll .op bytes = .ok .xacquire := by
  rcases present_next he with ⟨f, bytes, op, rfl, hd, -, hexec⟩ | ⟨a, b, -, -, rfl⟩ | ⟨-, rfl⟩
  · by_cases hf : f = .op
    · subst hf
      refine (h.of_presented_op hcall hd hexec).imp_right ?_
      rintro rfl
      exact ⟨bytes, rfl, hd⟩
    · exact .inl (h.of_presented_frame hf hd hexec)
  · exact .inl h
  · exact .inl h.resetInPlace

theorem AtRest.step_eq (h : AtRest s) (hin : s.inputs = []) : step s = .next s := by
  obtain ⟨-, hcalls, -⟩ := h
  exact step_of_no_call hin hcalls

/-- Settles O56: the engine's operation is blocked (`Blocked.engine_blocked`) or moves its context on (`Invariant.movesOn`);
at rest a step is the presented input's (`AtRest.present`), or there is none and nothing changes. -/
theorem blockedAndAtRest : Obligations.BlockedAndAtRest := by
  refine ⟨fun s i c op h hc hop => ⟨fun hb => hb.engine_blocked hc hop, h.movesOn hc hop⟩,
    fun s h => h.step_eq, fun s t h he => ?_⟩
  rcases step_next he with ⟨x, rest, hin, hx⟩ | ⟨hin, -⟩
  · obtain ⟨hcall, hrest⟩ := h.tail hin
    refine (hrest.present hcall hx).imp_right ?_
    rintro ⟨bytes, rfl, hd⟩
    exact ⟨bytes, rest, hin, hd⟩
  · cases (h.step_eq hin).symm.trans he
    exact .inl h

end Sys2Proof.Safety
end

/-! ## The return of a code -/
section

namespace Sys2Proof.Safety

open Sys2Proof.Machine

variable {s t : State} {op : Instr} {i : Nat} {code : ErrorCode}

/-- `return <code>` as operations of the block reach it (R108), from state `s`: one row for each arm that does. -/
inductive CodeReturn (s : State) : Instr → ErrorCode → State → Prop where
  | badArgument {op : Instr} {i : Nat} {slave : Byte} {dptr : Nat} {dsize : Half} (hop : EntryOf op i slave dptr dsize)
      (c : Ctx) : CodeReturn s op .illegalArgument (returnCode i c .illegalArgument s)
  | busy (i : Nat) (c : Ctx) : CodeReturn s (.acquire i) .masterBusy (returnCode i c .masterBusy s.draw)
  | woken {o : OutcomeReg} {code : ErrorCode} (ho : translateOutcome o = some code) (i : Nat) (c : Ctx) :
      CodeReturn s (.wake i) code (returnCode i c code s)

/-! ### The operations that return a code -/

theorem enterCall_codeReturn {acc : Ctx → State} {slave : Byte} {dptr : Nat} {dsize : Half}
    (hop : EntryOf op i slave dptr dsize) (hacc : ∀ c, (acc c).out = .accepted)
    (he : enterCall acc i slave dptr dsize s = .next t) (hout : t.out = .returned code) : CodeReturn s op code t := by
  obtain ⟨c, -, ⟨-, rfl⟩ | ⟨-, -, rfl⟩ | ⟨-, -, -, rfl⟩ | ⟨-, -, -, rfl⟩ | ⟨-, -, -, rfl⟩⟩ := enterCall_next he
  · cases hout
  · cases hout
    exact .badArgument hop c
  · cases hout
  · cases hout
  · cases (hacc c).symm.trans hout

theorem execAcquire_codeReturn (he : execAcquire i s = .next t) (hout : t.out = .returned code) :
    CodeReturn s (.acquire i) code t := by
  obtain ⟨c, -, ⟨-, rfl⟩ | ⟨-, -, rfl⟩ | ⟨-, -, -, rfl⟩ | ⟨-, -, -, rfl⟩ | ⟨-, -, -, rfl⟩⟩ := execAcquire_next he
  · cases hout
  · cases hout
  · cases hout
  · cases hout
    exact .busy i c
  · cases hout

theorem execWake_codeReturn (he : execWake i s = .next t) (hout : t.out = .returned code) :
    CodeReturn s (.wake i) code t := by
  obtain ⟨c, -, ⟨-, rfl⟩ | ⟨-, -, rfl⟩ | ⟨-, -, _, hcode, rfl⟩⟩ := execWake_next he
  · cases hout
  · cases hout
  · cases hout
    exact .woken hcode i _

theorem caller_codeReturn (he : exec op s = .next t) (ha : initiator op = some .caller) (hout : t.out = .returned code) :
    CodeReturn s op code t := by
  cases op with
  | issue i slave baddr dptr dsize tmo =>
    exact enterCall_codeReturn ⟨baddr, tmo, .inl rfl⟩ (fun _ => rfl) he hout
  | wbreq i slave baddr dptr dsize tmo =>
    exact enterCall_codeReturn ⟨baddr, tmo, .inr rfl⟩ (fun _ => rfl) he hout
  | _ => cases ha

theorem engine_codeReturn (he : exec op s = .next t) (ha : initiator op = some .engine) (hout : t.out = .returned code) :
    CodeReturn s op code t := by
  cases op with
  | acquire i => exact execAcquire_codeReturn he hout
  | build i => obtain ⟨c, -, ⟨-, rfl⟩ | ⟨-, -, rfl⟩⟩ := execBuild_next he <;> cases hout
  | post i => obtain ⟨c, -, ⟨-, rfl⟩ | ⟨-, rfl⟩⟩ := execPost_next he <;> cases hout
  | wait i => obtain ⟨c, -, ⟨-, rfl⟩ | ⟨-, rfl⟩⟩ := execWait_next he <;> cases hout
  | wake i => exact execWake_codeReturn he hout
  | _ => cases ha

/-! ### The agents whose operations return none -/

theorem giveVerdict_out_ne_returned {rsp : List Byte} {len : Half} (he : giveVerdict rsp len s = .next t)
    (code : ErrorCode) : t.out ≠ .returned code := by
  obtain ⟨e, -, rfl⟩ := giveVerdict_next he
  exact nofun

theorem dispatcher_out_ne_returned (he : exec op s = .next t) (ha : initiator op = some .dispatcher) (code : ErrorCode) :
    t.out ≠ .returned code := by
  cases op with
  | validate rsp len => exact giveVerdict_out_ne_returned he code
  | reportRsp rsp len => obtain ⟨e, -, ⟨i, c, -, -, rfl⟩ | ⟨-, rfl⟩⟩ := execReportRsp_next he <;> exact nofun
  | reportExc exc => obtain ⟨i, c, -, -, -, rfl⟩ | ⟨-, rfl⟩ := execReportExc_next he <;> exact nofun
  | reportTmo => obtain ⟨i, c, -, -, rfl⟩ | ⟨-, rfl⟩ := execReportTmo_next he <;> exact nofun
  | txread =>
    obtain ⟨r, rfl, -, -, hr⟩ := execTxread_next he
    exact hr code
  | reqFrame fc baddr count data =>
    obtain ⟨same, rfl⟩ := execReqFrame_next he
    exact nofun
  | rspFrame fc written => exact giveVerdict_out_ne_returned he code
  | _ => cases ha

theorem completionPath_out_ne_returned (he : exec op s = .next t) (ha : initiator op = some .completionPath)
    (code : ErrorCode) : t.out ≠ .returned code := by
  cases op with
  | release => obtain ⟨i, -, -, rfl⟩ | ⟨-, rfl⟩ := execRelease_next he <;> exact nofun
  | _ => cases ha

theorem otherRequester_out_ne_returned (he : exec op s = .next t) (ha : initiator op = some .otherRequester)
    (code : ErrorCode) : t.out ≠ .returned code := by
  cases op with
  | xacquire => obtain ⟨-, rfl⟩ | ⟨-, rfl⟩ := execXacquire_next he <;> exact nofun
  | xwrite x =>
    obtain ⟨-, ⟨_, _, -, -, rfl⟩ | ⟨_, -, rfl⟩ | ⟨_, -, rfl⟩⟩ | ⟨-, rfl⟩ := execXwrite_next he <;> exact nofun
  | xrelease => obtain ⟨-, rfl⟩ | ⟨-, rfl⟩ := execXrelease_next he <;> exact nofun
  | _ => cases ha

/-- An operation whose result is a code has reached `return <code>` in one of three arms. -/
theorem exec_codeReturn (he : exec op s = .next t) (hout : t.out = .returned code) : CodeReturn s op code t := by
  obtain ⟨a, ha, -⟩ := exec_agentKeeps he
  cases a with
  | caller => exact caller_codeReturn he ha hout
  | engine => exact engine_codeReturn he ha hout
  | dispatcher => exact absurd hout (dispatcher_out_ne_returned he ha code)
  | completionPath => exact absurd hout (completionPath_out_ne_returned he ha code)
  | otherRequester => exact absurd hout (otherRequester_out_ne_returned he ha code)

/-! ### Which operation returns which code, and what a return leaves alone -/

/-- The codes in the range of `translate` (R85). -/
theorem translateOutcome_some_cases {o : OutcomeReg} (h : translateOutcome o = some code) :
    code = .noError ∨ code = .timeout ∨ code = .protocolException := by
  cases o with
  | empty => cases h
  | success =>
    cases h
    exact .inl rfl
  | protocolException =>
    cases h
    exact .inr (.inr rfl)
  | timeout =>
    cases h
    exact .inr (.inl rfl)

theorem CodeReturn.code_cases (h : CodeReturn s op code t) :
    (∃ k slave baddr dptr dsize tmo, code = .illegalArgument ∧
        (op = .issue k slave baddr dptr dsize tmo ∨ op = .wbreq k slave baddr dptr dsize tmo)) ∨
      (∃ k, code = .masterBusy ∧ op = .acquire k) ∨
      (∃ k, (code = .noError ∨ code = .timeout ∨ code = .protocolException) ∧ op = .wake k) := by
  cases h with
  | badArgument hop c =>
    obtain ⟨baddr, tmo, hop⟩ := hop
    exact .inl ⟨_, _, baddr, _, _, tmo, rfl, hop⟩
  | busy i c => exact .inr (.inl ⟨i, rfl, rfl⟩)
  | woken ho i c => exact .inr (.inr ⟨i, translateOutcome_some_cases ho, rfl⟩)

/-- A return writes registers of its own context, and no shared one (R108). -/
theorem CodeReturn.keeps_shared (h : CodeReturn s op code t) :
    SameLock s t ∧ SameTx s t ∧ SamePend s t ∧ t.evlog = s.evlog ∧ t.fault = s.fault := by
  cases h with
  | badArgument hop c => exact ⟨⟨rfl, rfl⟩, ⟨rfl, rfl, rfl⟩, ⟨rfl, rfl⟩, rfl, rfl⟩
  | busy i c => exact ⟨⟨rfl, rfl⟩, ⟨rfl, rfl, rfl⟩, ⟨rfl, rfl⟩, rfl, rfl⟩
  | woken ho i c => exact ⟨⟨rfl, rfl⟩, ⟨rfl, rfl, rfl⟩, ⟨rfl, rfl⟩, rfl, rfl⟩

/-- Settles O54: a code is returned in one of the three arms of `CodeReturn`. -/
theorem errorReturnsArePrecise : Obligations.ErrorReturnsArePrecise := fun _ _ _ _ he hout =>
  have h := exec_codeReturn he hout
  ⟨h.code_cases, h.keeps_shared⟩

end Sys2Proof.Safety
end

/-! ## The parameters, the reset input, and the count kept in two places -/
section

namespace Sys2Proof.Safety

open Sys2Proof.Machine

variable {s t : State}

/-! ### Every step keeps the parameters -/

theorem present_cfg {x : Input} (he : present x s = .next t) : t.cfg = s.cfg := by
  rcases present_next he with ⟨f, bytes, op, -, -, -, hexec⟩ | ⟨a, b, -, -, rfl⟩ | ⟨-, rfl⟩
  · exact (exec_opKeeps hexec).cfg
  · rfl
  · rfl

theorem engineTurn_cfg (he : engineTurn s = .next t) : t.cfg = s.cfg := by
  rcases engineTurn_next he with ⟨-, rfl⟩ | ⟨i, rest, -, ⟨c, op, -, -, hexec⟩ | rfl⟩
  · rfl
  · exact (exec_opKeeps hexec).cfg
  · rfl

/-- Settles O51: an operation by `exec_opKeeps`, the other inputs and the engine's order by what they write. -/
theorem parametersAreFixed : Obligations.ParametersAreFixed := by
  intro s t he
  rcases step_next he with ⟨x, rest, -, hx⟩ | ⟨-, hturn⟩
  · exact present_cfg (s := { s with inputs := rest }) hx
  · exact engineTurn_cfg hturn

/-! ### The reset input -/

theorem step_reset {rest : List Input} (hin : s.inputs = .reset :: rest) :
    step s = .next (resetInPlace { s with inputs := rest }) :=
  step_of_inputs hin

theorem resetInPlace_ctxs_length (s : State) : (resetInPlace s).ctxs.length = s.cfg.nctx :=
  List.length_replicate

theorem eq_reset_of_mem_resetInPlace {c : Ctx} (hc : c ∈ (resetInPlace s).ctxs) : c = Ctx.reset :=
  List.eq_of_mem_replicate hc

/-- No byte of `TXBUF` is written at the reset input: each is drawn anew (R21, R35; log entry 10). -/
theorem resetInPlace_txByte (s : State) (off : Nat) :
    (resetInPlace s).txByte off = Config.txbufByte (s.epoch + 1) off := rfl

/-- Settles O38: the next state is `resetInPlace`, whose registers are those of `State.resetWith`. -/
theorem resetInputResets : Obligations.ResetInputResets := by
  intro s rest hin
  refine ⟨_, step_reset hin, rfl, rfl, rfl, rfl, rfl, rfl, rfl, rfl, resetInPlace_ctxs_length _, fun c hc => ?_,
    resetInPlace_txByte _, rfl, rfl, rfl, rfl⟩
  rw [eq_reset_of_mem_resetInPlace hc]
  exact ⟨rfl, rfl, rfl, rfl⟩

/-! ### The count in `PEND.COUNT` and in the buffer -/

/-- Two bytes that read as `BE16(v)` put together give `v` (R39). -/
theorem ube16_of_readBytes {f : Nat → Byte} {a : Nat} {v : Half} (h : readBytes f a 2 = be16 v) :
    ube16 (f a) (f (a + 1)) = v := by
  have hbytes : [f a, f (a + 1)] = [v.extractLsb' 8 8, v.extractLsb' 0 8] := h
  obtain ⟨hhi, hlo⟩ : f a = v.extractLsb' 8 8 ∧ f (a + 1) = v.extractLsb' 0 8 := by simpa using hbytes
  rw [hhi, hlo, ube16_be16]

/-- While a request is pending, bytes 5 and 6 of `TXBUF` hold its count (I-3). -/
theorem Invariant.bufferCount_eq (h : Invariant s) (hv : s.pendValid = true) :
    ube16 (s.txByte 5) (s.txByte 6) = s.pendCount := by
  obtain ⟨_, _, -, -, hp⟩ := h.shared.pendMeans hv
  exact ube16_of_readBytes hp.bytes

/-- Settles O45: the two sources hold one count (`Invariant.bufferCount_eq`), so the validator is given the same arguments. -/
theorem retainedCountEqualsBufferCount : Obligations.RetainedCountEqualsBufferCount := by
  intro s rsp len h hv
  rw [h.bufferCount_eq hv, hv]

end Sys2Proof.Safety
end
